-- ==== Sys2Proof/Word.lean ====
section
/-! DEFINITION. The two word types of the core, the halves of a 128-bit value and the named
constants (00_scope R9 to R12, 20_memory R42). `uval` of the spec is `BitVec.toNat`, `sval` is
`BitVec.toInt` (R11). -/

namespace Sys2Proof

/-- A native 64-bit word (R7). -/
abbrev Word := BitVec 64

/-- A 128-bit value: a U128 or an I128 by the operation that reads it (R29 to R31). -/
abbrev Wide := BitVec 128

/-- `v.hi = v[127:64]` (R10). -/
def hiWord (v : Wide) : Word := v.extractLsb' 64 64

/-- `v.lo = v[63:0]` (R10). -/
def loWord (v : Wide) : Word := v.extractLsb' 0 64

/-- The value `{hi: h, lo: l}` (R10, R42). -/
def pair (h l : Word) : Wide := h ++ l

/-- The 128-bit constants of R12. -/
abbrev ZERO : Wide := 0#128
abbrev ONE : Wide := 1#128
abbrev ONES : Wide := 0xFFFFFFFFFFFFFFFFFFFFFFFFFFFFFFFF#128
abbrev SMIN : Wide := 0x80000000000000000000000000000000#128
abbrev SMAX : Wide := 0x7FFFFFFFFFFFFFFFFFFFFFFFFFFFFFFF#128

/-- The 64-bit constants of R12. -/
abbrev MAXU64 : Word := 0xFFFFFFFFFFFFFFFF#64
abbrev MININT64 : Word := 0x8000000000000000#64
abbrev MAXINT64 : Word := 0x7FFFFFFFFFFFFFFF#64

end Sys2Proof
end

