-- ==== Sys2Proof/Machine/Regs.lean ====
section
/-! DEFINITION. The registers and ports of the core as plain records: the sampled request, the
response, the working registers of the multiplier, the divider, the bit-length search and the
signed wrapper, and what the host may do to the input ports (10_state R23, R24, R32, R34 to R36;
70_reset_and_hazards R330, R333). -/

namespace Sys2Proof.Machine

/-- The request ports of R23, as sampled at the transfer of a request (R335). -/
structure Request where
  OP : BitVec 8 := 0
  A  : Wide := 0
  B  : Wide := 0
  N  : Word := 0
deriving DecidableEq, Repr, Inhabited

/-- The response ports of R24. A field that is not named is zero (R66). -/
structure Response where
  ERR : BitVec 1 := 0
  Z   : Wide := 0
  R   : Wide := 0
  S   : Word := 0
deriving DecidableEq, Repr, Inhabited

/-- A working sign flag of the signed division wrapper (R32, R220). -/
inductive Sign where
  | positive
  | negative
deriving DecidableEq, Repr, Inhabited

/-- The multiplier's working registers (R34). -/
structure MulRegs where
  ACC : Wide := 0
  I   : BitVec 7 := 0
deriving DecidableEq, Repr, Inhabited

/-- The divider's working registers (R35). -/
structure DivRegs where
  Q   : Wide := 0
  REM : Wide := 0
  DV  : Wide := 0
  CNT : BitVec 8 := 0
  n   : BitVec 7 := 0
deriving DecidableEq, Repr, Inhabited

/-- The bit-length search's working registers (R36). `CNTB` is one of 0, 8, 16, ..., 56. -/
structure LenRegs where
  X    : Word := 0
  CNTB : BitVec 6 := 0
deriving DecidableEq, Repr, Inhabited

/-- The signed wrapper's flags (R32) and the two normalised magnitudes (R35, R220). -/
structure SignRegs where
  dividendSign : Sign := .positive
  divisorSign  : Sign := .positive
  xm : Wide := 0
  dm : Wide := 0
deriving DecidableEq, Repr, Inhabited

/-- All working registers (R34 to R36, R32). Outside a transaction they hold any value (U3). -/
structure Work where
  mul : MulRegs := {}
  div : DivRegs := {}
  len : LenRegs := {}
  sgn : SignRegs := {}
deriving DecidableEq, Repr, Inhabited

/-- What the host does to the input ports next (R330, R333). A request stays pending until the core
takes it; `reset` asserts and releases `RST`, whatever the request wires hold; `quiet` presents
nothing while the core is free. -/
inductive HostInput where
  | quiet
  | request (w : BitVec 328)
  | reset
deriving DecidableEq, Repr, Inhabited

end Sys2Proof.Machine
end

