-- ==== Sys2Proof/Machine/State.lean ====
section
/-! DEFINITION. The machine's state as plain data, the reasons a step can stop, and the state after
reset. The core keeps nothing between transactions (10_state R21): what State holds is the ports, the
handshake, the request in progress and the working registers. -/

namespace Sys2Proof.Machine

/-- Everything the spec gives the machine (INVENTORY.md, State). -/
structure State where
  /-- What the host will drive on `RST` and the request port, in this order (R28, R330, R333). -/
  inputs   : List HostInput
  /-- `req_ready` (R333): false exactly while a request is in progress (R334). -/
  reqReady : Bool
  /-- The request as sampled at its transfer (R23, R335). -/
  req      : Request
  /-- `rsp_valid` (R333). -/
  rspValid : Bool
  /-- The response ports `ERR`, `Z`, `R`, `S` (R24). -/
  rsp      : Response
  /-- The working registers (R32, R34 to R36). -/
  work     : Work
  /-- The model's own count of the free values drawn so far; no statement rests on its value. -/
  freeIx   : Nat
deriving DecidableEq, Repr

/-- Why the machine stops with a fault: never. The one exception, DivisionByZero, is a response, and
the core goes on (R300, R305); no rule describes a stuck machine (R340). Raised by nothing. -/
inductive Fault where
deriving DecidableEq, Repr

/-- Why the model gives a request no meaning. -/
inductive Refusal where
  /-- Raised by an arm of `exec` whose instruction has no meaning yet. Safe: the model stops. -/
  | notModelled (mnemonic : String)
  /-- Raised by `step` at the transfer of a request whose `OP` is reserved, and at the completion of
  one (R69, R308, U1: "Treatment: refuse"). Safe: the model stops. -/
  | reservedOpcode (op : BitVec 8)
deriving DecidableEq, Repr

/-- The machine when `RST` is released: `rsp_valid = 0`, `req_ready = 1` (R331). The data fields and
working registers are unspecified there (R331, R38); zero is the model's choice (log 5, 6, 7). -/
def State.reset : State :=
  { inputs := []
    reqReady := true
    req := {}
    rspValid := false
    rsp := {}
    work := {}
    freeIx := 0 }

end Sys2Proof.Machine
end

