-- ==== Sys2Proof/Config.lean ====
section
/-! DEFINITION. What an implementation fixes (00_scope R8) and the free values: values the spec
calls `any value` (93_implementation_defined U2 to U4). A free value is opaque, so no proof can
depend on what it is. DESIGN CHOICE: the free values are functions of the number of a draw alone, the same
for every core and every run, so two states with equal counts draw equal values, which the spec does not
say (log 8, 19). -/

namespace Sys2Proof.Config

/-- `MUL_STRUCTURE` (R8): how the multiplier sums its 128 partial products. -/
inductive MulStructure where
  | serial
  | tree
deriving DecidableEq, Repr

/-- `ABSCMP_READING` (R8, U7): how the six absolute-value compares order magnitudes. -/
inductive AbsReading where
  | unsigned
  | signed
deriving DecidableEq, Repr

/-- `RSHIFTV_I_RANGE` (R8, U6): what `RSHIFTV.I` gives for an amount of 128 or more. -/
inductive RangeReading where
  | sign
  | zero
deriving DecidableEq, Repr

/-- `DIV_FAST_PATHS` (R8, U12), at its default. No result depends on it (R207). -/
def divFastPaths : Bool := true

/-- `MUL_STRUCTURE` (R8, U12), at its default. No result depends on it (R181). -/
def mulStructure : MulStructure := .serial

/-- `ABSCMP_READING` (R8, U7), at the spec's decision D22. -/
def abscmpReading : AbsReading := .unsigned

/-- `ISPOS_ZERO` (R8, U8), the result of `ISPOS.I` on `ZERO`, at the spec's decision D23. -/
def isposZero : Bool := false

/-- `RSHIFTV_I_RANGE` (R8, U6), at the spec's decision D21. -/
def rshiftvIRange : RangeReading := .sign

/-- The response wires while no response is valid (U2). -/
opaque freeResponse : Nat → Machine.Response

/-- The working registers outside a transaction (U3). -/
opaque freeWork : Nat → Machine.Work

/-- `udiv64(a, 0)` and `umod64(a, 0)`, which no rule reaches (R202, U4). -/
opaque udiv64ByZero : Word → Word
opaque umod64ByZero : Word → Word

end Sys2Proof.Config
end

