-- ==== Sys2Proof/Machine/Prim.lean ====
section
/-! DEFINITION. The word-level primitives of 00_scope R13: the only machine operations the rules
use, all on 64-bit words. Results are computed exactly and brought back to the width at the end. -/

namespace Sys2Proof.Machine

/-- `add64` (R13): sum and carry out. -/
def add64 (x y : Word) (cin : BitVec 1) : Word × BitVec 1 :=
  (BitVec.ofNat 64 (x.toNat + y.toNat + cin.toNat),
    if 2 ^ 64 ≤ x.toNat + y.toNat + cin.toNat then 1 else 0)

/-- `sub64` (R13): difference and borrow out. -/
def sub64 (x y : Word) (bin : BitVec 1) : Word × BitVec 1 :=
  (BitVec.ofInt 64 ((x.toNat : Int) - y.toNat - bin.toNat),
    if x.toNat < y.toNat + bin.toNat then 1 else 0)

/-- `shl64` (R13): zero when `k >= 64`. -/
def shl64 (x : Word) (k : Nat) : Word :=
  if 64 ≤ k then 0 else BitVec.ofNat 64 (x.toNat * 2 ^ k)

/-- `shr64` (R13): logical; zero when `k >= 64`. -/
def shr64 (x : Word) (k : Nat) : Word :=
  if 64 ≤ k then 0 else BitVec.ofNat 64 (x.toNat / 2 ^ k)

/-- `sar64` (R13): `floor(sval(x) / 2^k)`; all copies of `x[63]` when `k >= 63`. -/
def sar64 (x : Word) (k : Nat) : Word :=
  if 63 ≤ k then (if x.msb then MAXU64 else 0) else BitVec.ofInt 64 (x.toInt / 2 ^ k)

/-- `and64`, `or64`, `xor64`, `not64` (R13): bit by bit. -/
def and64 (x y : Word) : Word := x &&& y
def or64 (x y : Word) : Word := x ||| y
def xor64 (x y : Word) : Word := x ^^^ y
def not64 (x : Word) : Word := ~~~x

/-- `ltu64`, `lts64`, `eq64` (R13). -/
def ltu64 (x y : Word) : Bool := decide (x.toNat < y.toNat)
def lts64 (x y : Word) : Bool := decide (x.toInt < y.toInt)
def eq64 (x y : Word) : Bool := decide (x = y)

/-- `udiv64` (R13, R202): the native unsigned quotient; a free value at a zero divisor (U4). -/
def udiv64 (x y : Word) : Word :=
  if y = 0 then Config.udiv64ByZero x else BitVec.ofNat 64 (x.toNat / y.toNat)

/-- `umod64` (R13, R202): the native unsigned remainder; a free value at a zero divisor (U4). -/
def umod64 (x y : Word) : Word :=
  if y = 0 then Config.umod64ByZero x else BitVec.ofNat 64 (x.toNat % y.toNat)

end Sys2Proof.Machine
end

