-- ==== Sys2Proof/Machine/Arith.lean ====
section
/-! DEFINITION. The named 128-bit functions of 00_scope R15 that use no working register: adder,
subtractor, negation, bitwise ALU, comparator, barrel shifter. Each is written on 64-bit words as
its rule is. -/

namespace Sys2Proof.Machine

/-- `add128` (R100). The carry out of bit 127 is discarded and reported nowhere, so that the laws (a), (b),
(d) of R110 hold for all values; both engines' instructions call it (R110 e). -/
def add128 (x y : Wide) : Wide :=
  let lo := add64 (loWord x) (loWord y) 0
  let hi := add64 (hiWord x) (hiWord y) lo.2
  pair hi.1 lo.1

/-- `sub128` (R101). The borrow out of bit 127 is discarded and reported nowhere (R110, law c); both
engines' instructions call it (R110 e). -/
def sub128 (x y : Wide) : Wide :=
  let lo := sub64 (loWord x) (loWord y) 0
  let hi := sub64 (hiWord x) (hiWord y) lo.2
  pair hi.1 lo.1

/-- `neg128` (R102): `0 - x`, the additive inverse of every value, `SMIN` too (R110, law b); both engines'
instructions call it (R110 e). -/
def neg128 (x : Wide) : Wide := sub128 ZERO x

/-- `ABS.I`'s value (R109). -/
def abs128 (x : Wide) : Wide := if x.msb then neg128 x else x

/-- A two-operand bitwise operation applied to each word (R111). -/
def wordwise (f : Word → Word → Word) (x y : Wide) : Wide :=
  pair (f (hiWord x) (hiWord y)) (f (loWord x) (loWord y))

/-- The eight bitwise operations (R112 to R119). -/
def not128 (x : Wide) : Wide := pair (not64 (hiWord x)) (not64 (loWord x))
def and128 : Wide → Wide → Wide := wordwise and64
def andnot128 : Wide → Wide → Wide := wordwise fun a b => and64 a (not64 b)
def or128 : Wide → Wide → Wide := wordwise or64
def nor128 : Wide → Wide → Wide := wordwise fun a b => not64 (or64 a b)
def nand128 : Wide → Wide → Wide := wordwise fun a b => not64 (and64 a b)
def xor128 : Wide → Wide → Wide := wordwise xor64
def xnor128 : Wide → Wide → Wide := wordwise fun a b => not64 (xor64 a b)

/-- `cmpu128` (R130): -1 less, 0 equal, +1 greater, as unsigned values (D19). -/
def cmpu128 (x y : Wide) : Int :=
  if ltu64 (hiWord x) (hiWord y) then -1
  else if ltu64 (hiWord y) (hiWord x) then 1
  else if ltu64 (loWord x) (loWord y) then -1
  else if ltu64 (loWord y) (loWord x) then 1
  else 0

/-- `cmps128` (R131): the high words signed first, then the low words unsigned. -/
def cmps128 (x y : Wide) : Int :=
  if lts64 (hiWord x) (hiWord y) then -1
  else if lts64 (hiWord y) (hiWord x) then 1
  else if ltu64 (loWord x) (loWord y) then -1
  else if ltu64 (loWord y) (loWord x) then 1
  else 0

/-- `absmag` (R132): the magnitude, read as an unsigned value. -/
def absmag (x : Wide) : Wide := abs128 x

/-- The absolute-value compare under either reading of `ABSCMP_READING` (R132, U7). -/
def cmpabs128 (reading : Config.AbsReading) (x y : Wide) : Int :=
  match reading with
  | .unsigned => cmpu128 (absmag x) (absmag y)
  | .signed => cmps128 (abs128 x) (abs128 y)

/-- `shl128` (R161). -/
def shl128 (x : Wide) (n : Nat) : Wide :=
  if 128 ≤ n then ZERO
  else if 64 ≤ n then pair (shl64 (loWord x) (n - 64)) 0
  else if n = 0 then x
  else pair (or64 (shl64 (hiWord x) n) (shr64 (loWord x) (64 - n))) (shl64 (loWord x) n)

/-- `shr128` (R162), logical. -/
def shr128 (x : Wide) (n : Nat) : Wide :=
  if 128 ≤ n then ZERO
  else if 64 ≤ n then pair 0 (shr64 (hiWord x) (n - 64))
  else if n = 0 then x
  else pair (shr64 (hiWord x) n) (or64 (shr64 (loWord x) n) (shl64 (hiWord x) (64 - n)))

/-- All copies of the sign bit (R163). -/
def signFill (x : Wide) : Wide := if x.msb then ONES else ZERO

/-- `sar128` (R163), arithmetic. -/
def sar128 (x : Wide) (n : Nat) : Wide :=
  if 128 ≤ n then signFill x
  else if 64 ≤ n then pair (sar64 (hiWord x) 63) (sar64 (hiWord x) (n - 64))
  else if n = 0 then x
  else pair (sar64 (hiWord x) n) (or64 (shr64 (loWord x) n) (shl64 (hiWord x) (64 - n)))

end Sys2Proof.Machine
end

