-- ==== Sys2Proof/Machine/Operands.lean ====
section
/-! DEFINITION. Every operand form: the shift amounts (43_shift R160, R168, R173; 30_encoding R68),
the 64-bit source words and the conversions between widths (48_convert_predicates R231). -/

namespace Sys2Proof.Machine

/-- The amount of `LSHIFTN`, `RSHIFTN`: the whole `N`, unsigned (R68, R160). -/
def amountN (n : Word) : Nat := n.toNat

/-- The amount of `LSHIFT`, `RSHIFT`: part of the opcode (R68, R160). -/
def amountOne : Nat := 1

/-- Whether the 128-bit amount of `RSHIFTV` is 128 or more (R168, R173). -/
def amountOutOfRange (y : Wide) : Bool := !eq64 (hiWord y) 0 || decide (128 ≤ (loWord y).toNat)

/-- `RSHIFTV.U`'s value (R168). -/
def shrByValue (x y : Wide) : Wide :=
  if amountOutOfRange y then ZERO else shr128 x (loWord y).toNat

/-- `RSHIFTV.I`'s value (R173), under either reading of `RSHIFTV_I_RANGE` (U6). -/
def sarByValue (range : Config.RangeReading) (x y : Wide) : Wide :=
  if amountOutOfRange y then
    match range with
    | .sign => signFill x
    | .zero => ZERO
  else sar128 x (loWord y).toNat

/-- `widen_u` (R231): zero extension. -/
def widenU (w : Word) : Wide := pair 0 w

/-- `widen_s` (R231): sign extension. -/
def widenS (w : Word) : Wide := pair (sar64 w 63) w

/-- `narrow` (R231): truncation to 64 bits. -/
def narrow (v : Wide) : Word := loWord v

/-- The reinterpretation of R31: the same bits. -/
def reinterp (v : Wide) : Wide := v

end Sys2Proof.Machine
end

