-- ==== Sys2Proof/Machine/Flags.lean ====
section
/-! DEFINITION. Every flag and status computation: the encodings on the `S` port (30_encoding R67),
the predicates (48_convert_predicates R237 to R251), the sign flags of the signed wrapper
(10_state R32, 47_divide_signed R220). The core has no condition flags (R32); `ERR` is set by
`State.raiseDivisionByZero` of Machine/Ops.lean alone. -/

namespace Sys2Proof.Machine

/-- A Boolean result on `S` (R67 a). -/
def boolS (b : Bool) : Word := if b then 1 else 0

/-- A three-way result on `S` (R67 b): 64-bit two's complement. -/
def threeWayS (c : Int) : Word := BitVec.ofInt 64 c

/-- A bit length on `S` (R67 c): zero-extended. -/
def lengthS (n : Nat) : Word := BitVec.ofNat 64 n

/-- The Boolean compares, each from the three-way result (R134 to R138). -/
def isEq (c : Int) : Bool := decide (c = 0)
def isLt (c : Int) : Bool := decide (c = -1)
def isLte (c : Int) : Bool := decide (c ≠ 1)
def isGt (c : Int) : Bool := decide (c = 1)
def isGte (c : Int) : Bool := decide (c ≠ -1)

/-- `FITSS64.U` (R237). -/
def fitsS64U (x : Wide) : Bool := eq64 (hiWord x) 0 && !(loWord x).msb

/-- `FITSU64.U` (R238). -/
def fitsU64U (x : Wide) : Bool := eq64 (hiWord x) 0

/-- `FITSS64.I` (R247): the high word is the sign extension of the low word. -/
def fitsS64I (x : Wide) : Bool := eq64 (hiWord x) (sar64 (loWord x) 63)

/-- `FITSU64.I` (R248). -/
def fitsU64I (x : Wide) : Bool := eq64 (hiWord x) 0

/-- `ISNEG.I` (R249): bit 127. -/
def isNeg (x : Wide) : Bool := x.msb

/-- `ISPOS.I` (R250), with `ISPOS_ZERO` as a parameter (U8). -/
def isPos (zeroCounts : Bool) (x : Wide) : Bool :=
  if x = ZERO then zeroCounts else !x.msb

/-- `SIGN.I` (R251), the three-way value. -/
def signThreeWay (x : Wide) : Int := if x.msb then -1 else if x = ZERO then 0 else 1

/-- The sign flag of an operand of the signed wrapper (R220). -/
def signOf (x : Wide) : Sign := if x.msb then .negative else .positive

/-- "quotient sign = XOR of operand signs" (R220). -/
def quotientNegated (g : SignRegs) : Bool := decide (g.dividendSign ≠ g.divisorSign)

/-- "remainder sign = dividend's sign" (R220). -/
def remainderNegated (g : SignRegs) : Bool := decide (g.dividendSign = .negative)

/-- A result negated when its sign flag says so (R220). -/
def negateIf (b : Bool) (x : Wide) : Wide := if b then neg128 x else x

end Sys2Proof.Machine
end

