-- ==== Sys2Proof/Machine/Units.lean ====
section
/-! DEFINITION. The blocks that work in registers: the multiplier (44_multiply R180), the bit-length
search (45_bitlength R191, R192), the long-division unit (46_divide_unsigned R203, R204) and the
signed wrapper (47_divide_signed R220). A unit takes the working registers as it finds them, loads
what it reads before it reads it (10_state R38), and gives its result with the registers as it
leaves them. -/

namespace Sys2Proof.Machine

/-! ### The multiplier -/

/-- `ACC <- ZERO` and the bit counter at 0 (R180, R34). -/
def mulLoad (r : MulRegs) : MulRegs := { r with ACC := ZERO, I := 0 }

/-- One of the 128 steps (R180): bit `I` of `y` decides whether `x` shifted left by `I` is added. -/
def mulStep (x y : Wide) (r : MulRegs) : MulRegs :=
  { r with
    ACC := if y.getLsbD r.I.toNat then add128 r.ACC (shl128 x r.I.toNat) else r.ACC
    I := r.I + 1 }

/-- `k` steps of the multiplier. -/
def mulLoop : Nat → Wide → Wide → MulRegs → MulRegs
  | 0, _, _, r => r
  | k + 1, x, y, r => mulLoop k x y (mulStep x y r)

/-- The partial product of bit `i` of `y` (R181). -/
def partialProduct (x y : Wide) (i : Nat) : Wide := if y.getLsbD i then shl128 x i else ZERO

/-- The sum of the `2^k` partial products from bit `i` on, by a balanced tree of adders (R181). -/
def mulTree (x y : Wide) : Nat → Nat → Wide
  | 0, i => partialProduct x y i
  | k + 1, i => add128 (mulTree x y k i) (mulTree x y k (i + 2 ^ k))

/-- `mul128` (R180), in the structure `MUL_STRUCTURE` names (R181). -/
def mulRun (structure' : Config.MulStructure) (x y : Wide) (r : MulRegs) : MulRegs :=
  match structure' with
  | .serial => mulLoop 128 x y (mulLoad r)
  | .tree => { r with ACC := mulTree x y 7 0 }

/-- The multiplier as a block: its product and the registers it leaves. -/
def mulUnit (structure' : Config.MulStructure) (x y : Wide) (w : Work) : Wide × Work :=
  ((mulRun structure' x y w.mul).ACC, { w with mul := mulRun structure' x y w.mul })

/-! ### The bit-length search -/

/-- The constant table `LUT8` (20_memory R41): 256 entries of 4 bits. -/
def lut8Table : List (BitVec 4) :=
  [0] ++ [1] ++ List.replicate 2 2 ++ List.replicate 4 3 ++ List.replicate 8 4 ++
    List.replicate 16 5 ++ List.replicate 32 6 ++ List.replicate 64 7 ++ List.replicate 128 8

/-- `LUT8[i]` (R41). -/
def lut8 (i : BitVec 8) : BitVec 4 := lut8Table.getD i.toNat 0

/-- `X <- x ; CNTB <- 0` (R191). -/
def lenLoad (x : Word) (r : LenRegs) : LenRegs := { r with X := x, CNTB := 0 }

/-- One level of the search (R191): whether `X` reaches above its low `k` bits. -/
def lenLevel (k : Nat) (r : LenRegs) : LenRegs :=
  if 2 ^ k ≤ r.X.toNat then { r with X := shr64 r.X k, CNTB := r.CNTB + BitVec.ofNat 6 k } else r

/-- The three levels, in this order (R191). -/
def lenRun (x : Word) (r : LenRegs) : LenRegs := lenLevel 8 (lenLevel 16 (lenLevel 32 (lenLoad x r)))

/-- `CNTB + LUT8[X[7:0]]` (R191). -/
def lenResult (r : LenRegs) : Nat := r.CNTB.toNat + (lut8 (r.X.extractLsb' 0 8)).toNat

/-- `bitlen64` (R191) as a block. -/
def bitlen64Unit (x : Word) (w : Work) : Nat × Work :=
  (lenResult (lenRun x w.len), { w with len := lenRun x w.len })

/-- `bitlen128` (R192) as a block: the high half when it is nonzero. -/
def bitlen128Unit (x : Wide) (w : Work) : Nat × Work :=
  if eq64 (hiWord x) 0 then bitlen64Unit (loWord x) w
  else (64 + (bitlen64Unit (hiWord x) w).1, (bitlen64Unit (hiWord x) w).2)

/-! ### The long-division unit -/

/-- The divisor's zero test, on both words (R201). -/
def isZero128 (d : Wide) : Bool := eq64 (hiWord d) 0 && eq64 (loWord d) 0

/-- The registers at the start of the loop (R204, R35). -/
def divLoad (x d : Wide) (n : Nat) (r : DivRegs) : DivRegs :=
  { r with
    n := BitVec.ofNat 7 n
    DV := shl128 d n
    Q := ZERO
    REM := x
    CNT := BitVec.ofNat 8 (n + 1) }

/-- Whether the (still shifted) divisor is at most the remainder in progress (R204). -/
def divTakes (r : DivRegs) : Bool := decide (cmpu128 r.DV r.REM ≠ 1)

/-- One iteration (R204): shift `Q`, compare, set the bit and subtract, shift `DV`. -/
def divStep (r : DivRegs) : DivRegs :=
  { r with
    Q := if divTakes r then or128 (shl128 r.Q 1) ONE else shl128 r.Q 1
    REM := if divTakes r then sub128 r.REM r.DV else r.REM
    DV := shr128 r.DV 1
    CNT := r.CNT - 1 }

/-- `while CNT > 0` (R204), with a bound on the number of iterations (R340). -/
def divLoop : Nat → DivRegs → DivRegs
  | 0, r => r
  | k + 1, r => if r.CNT = 0 then r else divLoop k (divStep r)

/-- The loop of R204 from its loading on; it runs at most 128 times (R204, R340). -/
def divRun (x d : Wide) (n : Nat) (r : DivRegs) : DivRegs := divLoop 128 (divLoad x d n r)

/-- `longdiv` (R204) as a block, for `d != ZERO`. -/
def longdivUnit (x d : Wide) (w : Work) : (Wide × Wide) × Work :=
  let bx := bitlen128Unit x w
  let bd := bitlen128Unit d bx.2
  if bx.1 < bd.1 then ((ZERO, x), bd.2)
  else
    let r := divRun x d (bx.1 - bd.1) bd.2.div
    ((r.Q, r.REM), { bd.2 with div := r })

/-- `udivmod128` (R200, R203) as a block: the ordered cascade. `none` is DivisionByZero (R201);
`fast` is `DIV_FAST_PATHS`. -/
def udivmodUnit (fast : Bool) (structure' : Config.MulStructure) (x d : Wide) (w : Work) :
    Option ((Wide × Wide) × Work) :=
  if isZero128 d then none
  else if fast && decide (cmpu128 x d = -1) then some ((ZERO, x), w)
  else if fast && ltu64 MAXINT64 (hiWord d) then some ((ONE, sub128 x d), w)
  else if fast && (eq64 (hiWord x) 0 && eq64 (hiWord d) 0) then
    some ((pair 0 (udiv64 (loWord x) (loWord d)), pair 0 (umod64 (loWord x) (loWord d))), w)
  else if fast && (eq64 (loWord x) 0 && eq64 (loWord d) 0) then
    let q := pair 0 (udiv64 (hiWord x) (hiWord d))
    let m := mulUnit structure' d q w
    some ((q, sub128 x m.1), m.2)
  else some (longdivUnit x d w)

/-! ### The signed division wrapper -/

/-- The sign flags and magnitudes of both operands (R220). -/
def signLoad (x d : Wide) (g : SignRegs) : SignRegs :=
  { g with
    dividendSign := signOf x
    divisorSign := signOf d
    xm := if x.msb then neg128 x else x
    dm := if d.msb then neg128 d else d }

/-- `sdivmod128` (R220) as a block: normalise, divide unsigned, fix the signs. -/
def sdivmodUnit (fast : Bool) (structure' : Config.MulStructure) (x d : Wide) (w : Work) :
    Option ((Wide × Wide) × Work) :=
  let g := signLoad x d w.sgn
  match udivmodUnit fast structure' g.xm g.dm { w with sgn := g } with
  | none => none
  | some (qr, w') =>
    some ((negateIf (quotientNegated w'.sgn) qr.1, negateIf (remainderNegated w'.sgn) qr.2), w')

end Sys2Proof.Machine
end

