-- ==== Sys2Proof/Machine/Ops.lean ====
section
/-! DEFINITION. The named operations over the state: giving a response, raising DivisionByZero,
taking a request, withdrawing a response, and reset. No operation returns from the exception: there
is nothing to return from (60_exceptions R312). -/

namespace Sys2Proof.Machine

/-- The core gives the response `r` to the request in progress (R333): the response is valid and the
core is ready again (R334). The working registers are dead from here on and hold any value (U3), drawn as Config says (log 8). -/
def State.answer (s : State) (r : Response) : State :=
  { s with
    reqReady := true
    rspValid := true
    rsp := r
    work := Config.freeWork s.freeIx
    freeIx := s.freeIx + 1 }

/-- Taking the one exception, `raise DivisionByZero()`: the fault response of R303 and nothing else
(R304, R311). -/
def State.raiseDivisionByZero (s : State) : State :=
  s.answer { ERR := 1, Z := ZERO, R := ZERO, S := 0 }

/-- A transaction whose result leaves on `Z` alone (R66): no carry, borrow or overflow is reported (R32,
R110). -/
def State.answerZ (s : State) (z : Wide) : Host.Outcome State Fault Refusal := .next (s.answer { Z := z })

/-- A transaction whose result leaves on `S` alone (R66). -/
def State.answerS (s : State) (v : Word) : Host.Outcome State Fault Refusal := .next (s.answer { S := v })

/-- `MUL` of either type: the product leaves on `Z` (R182, R183). -/
def State.multiply (s : State) (x y : Wide) : Host.Outcome State Fault Refusal :=
  let m := mulUnit Config.mulStructure x y s.work
  { s with work := m.2 }.answerZ m.1

/-- A bit length found by a block leaves on `S` (R193, R194). -/
def State.answerLength (s : State) (found : Nat × Work) : Host.Outcome State Fault Refusal :=
  { s with work := found.2 }.answerS (lengthS found.1)

/-- What a division answers from its block's result (R208 to R210, R222 to R224): the exception, or
the response that `form` makes of the quotient and the remainder. -/
def State.answerDivision (s : State) (form : Wide → Wide → Response) :
    Option ((Wide × Wide) × Work) → Host.Outcome State Fault Refusal
  | none => .next s.raiseDivisionByZero
  | some (qr, w) => .next ({ s with work := w }.answer (form qr.1 qr.2))

/-- A division of the unsigned engine (R208 to R210). -/
def State.divideUnsigned (s : State) (form : Wide → Wide → Response) (x d : Wide) :
    Host.Outcome State Fault Refusal :=
  s.answerDivision form (udivmodUnit Config.divFastPaths Config.mulStructure x d s.work)

/-- A division of the signed engine (R222 to R224). -/
def State.divideSigned (s : State) (form : Wide → Wide → Response) (x d : Wide) :
    Host.Outcome State Fault Refusal :=
  s.answerDivision form (sdivmodUnit Config.divFastPaths Config.mulStructure x d s.work)

/-- `rsp_valid` falls; the response wires then hold any value (U2, R336), drawn as Config says (log 8). -/
def State.withdraw (s : State) : State :=
  { s with
    rspValid := false
    rsp := Config.freeResponse s.freeIx
    freeIx := s.freeIx + 1 }

/-- The transfer of a request (R333): its fields are sampled once (R335) and the core is no longer
ready (R334). -/
def State.transfer (s : State) (r : Request) : State :=
  { s.withdraw with req := r, reqReady := false }

/-- `RST` asserted and released (R330, R331): the transaction in progress is abandoned without a
response and the core is ready. -/
def State.applyReset (s : State) : State :=
  { s.withdraw with reqReady := true, work := Config.freeWork s.freeIx }

end Sys2Proof.Machine
end

