-- ==== Sys2Proof/Machine/AddSub.lean ====
section
/-! DEFINITION. Adder, subtractor, negation, absolute value (40_add_sub_neg): one meaning per instruction, over the shared operations. -/

namespace Sys2Proof.Machine

/-- `ADD.U` (R103): rsp.Z <- add128(req.A, req.B). -/
def execAddU (a b : Wide) (s : State) : Host.Outcome State Fault Refusal :=
  s.answerZ (add128 a b)

/-- `SUB.U` (R104): rsp.Z <- sub128(req.A, req.B). -/
def execSubU (a b : Wide) (s : State) : Host.Outcome State Fault Refusal :=
  s.answerZ (sub128 a b)

/-- `NEG.U` (R105): rsp.Z <- neg128(req.A). -/
def execNegU (a : Wide) (s : State) : Host.Outcome State Fault Refusal :=
  s.answerZ (neg128 a)

/-- `ADD.I` (R106): rsp.Z <- add128(req.A, req.B). -/
def execAddI (a b : Wide) (s : State) : Host.Outcome State Fault Refusal :=
  s.answerZ (add128 a b)

/-- `SUB.I` (R107): rsp.Z <- sub128(req.A, req.B). -/
def execSubI (a b : Wide) (s : State) : Host.Outcome State Fault Refusal :=
  s.answerZ (sub128 a b)

/-- `NEG.I` (R108): rsp.Z <- neg128(req.A). -/
def execNegI (a : Wide) (s : State) : Host.Outcome State Fault Refusal :=
  s.answerZ (neg128 a)

/-- `ABS.I` (R109): neg128(req.A) when bit 127 is 1, else req.A. -/
def execAbsI (a : Wide) (s : State) : Host.Outcome State Fault Refusal :=
  s.answerZ (abs128 a)

end Sys2Proof.Machine
end

