-- ==== Sys2Proof/Machine/BitLength.lean ====
section
/-! DEFINITION. Bit-length encoder (45_bitlength): one meaning per instruction, over the shared operations. -/

namespace Sys2Proof.Machine

/-- `BITLEN.U` (R194): rsp.S <- zext_64(bitlen128(req.A)). -/
def execBitlenU (a : Wide) (s : State) : Host.Outcome State Fault Refusal :=
  s.answerLength (bitlen128Unit a s.work)

/-- `BITLEN64` (R193): rsp.S <- zext_64(bitlen64(req.N)). -/
def execBitlen64 (n : Word) (s : State) : Host.Outcome State Fault Refusal :=
  s.answerLength (bitlen64Unit n s.work)

end Sys2Proof.Machine
end

