-- ==== Sys2Proof/Machine/Bitwise.lean ====
section
/-! DEFINITION. Bitwise ALU (41_bitwise): one meaning per instruction, over the shared operations. -/

namespace Sys2Proof.Machine

/-- `AND.U` (R112): x AND y. -/
def execAndU (a b : Wide) (s : State) : Host.Outcome State Fault Refusal :=
  s.answerZ (and128 a b)

/-- `ANDNOT.U` (R113): x AND (NOT y) (D20). -/
def execAndnotU (a b : Wide) (s : State) : Host.Outcome State Fault Refusal :=
  s.answerZ (andnot128 a b)

/-- `OR.U` (R114): x OR y. -/
def execOrU (a b : Wide) (s : State) : Host.Outcome State Fault Refusal :=
  s.answerZ (or128 a b)

/-- `NOR.U` (R115): NOT (x OR y) (D20). -/
def execNorU (a b : Wide) (s : State) : Host.Outcome State Fault Refusal :=
  s.answerZ (nor128 a b)

/-- `NAND.U` (R116): NOT (x AND y) (D20). -/
def execNandU (a b : Wide) (s : State) : Host.Outcome State Fault Refusal :=
  s.answerZ (nand128 a b)

/-- `XOR.U` (R117): x XOR y. -/
def execXorU (a b : Wide) (s : State) : Host.Outcome State Fault Refusal :=
  s.answerZ (xor128 a b)

/-- `XNOR.U` (R118): NOT (x XOR y) (D20). -/
def execXnorU (a b : Wide) (s : State) : Host.Outcome State Fault Refusal :=
  s.answerZ (xnor128 a b)

/-- `NOT.U` (R119): NOT x. -/
def execNotU (a : Wide) (s : State) : Host.Outcome State Fault Refusal :=
  s.answerZ (not128 a)

/-- `AND.I` (R120): x AND y. -/
def execAndI (a b : Wide) (s : State) : Host.Outcome State Fault Refusal :=
  s.answerZ (and128 a b)

/-- `ANDNOT.I` (R121): x AND (NOT y) (D20). -/
def execAndnotI (a b : Wide) (s : State) : Host.Outcome State Fault Refusal :=
  s.answerZ (andnot128 a b)

/-- `OR.I` (R122): x OR y. -/
def execOrI (a b : Wide) (s : State) : Host.Outcome State Fault Refusal :=
  s.answerZ (or128 a b)

/-- `NOR.I` (R123): NOT (x OR y) (D20). -/
def execNorI (a b : Wide) (s : State) : Host.Outcome State Fault Refusal :=
  s.answerZ (nor128 a b)

/-- `NAND.I` (R124): NOT (x AND y) (D20). -/
def execNandI (a b : Wide) (s : State) : Host.Outcome State Fault Refusal :=
  s.answerZ (nand128 a b)

/-- `XOR.I` (R125): x XOR y. -/
def execXorI (a b : Wide) (s : State) : Host.Outcome State Fault Refusal :=
  s.answerZ (xor128 a b)

/-- `XNOR.I` (R126): NOT (x XOR y) (D20). -/
def execXnorI (a b : Wide) (s : State) : Host.Outcome State Fault Refusal :=
  s.answerZ (xnor128 a b)

/-- `NOT.I` (R127): NOT x. -/
def execNotI (a : Wide) (s : State) : Host.Outcome State Fault Refusal :=
  s.answerZ (not128 a)

end Sys2Proof.Machine
end

