-- ==== Sys2Proof/Machine/Compare.lean ====
section
/-! DEFINITION. Comparator (42_compare): one meaning per instruction, over the shared operations. -/

namespace Sys2Proof.Machine

/-- `CMP.U` (R133): rsp.S <- sext_64(c) with c = cmpu128(req.A, req.B). -/
def execCmpU (a b : Wide) (s : State) : Host.Outcome State Fault Refusal :=
  s.answerS (threeWayS (cmpu128 a b))

/-- `EQ.U` (R134): 1 if c = 0 else 0, with c = cmpu128(req.A, req.B). -/
def execEqU (a b : Wide) (s : State) : Host.Outcome State Fault Refusal :=
  s.answerS (boolS (isEq (cmpu128 a b)))

/-- `LT.U` (R135): 1 if c = -1 else 0, with c = cmpu128(req.A, req.B). -/
def execLtU (a b : Wide) (s : State) : Host.Outcome State Fault Refusal :=
  s.answerS (boolS (isLt (cmpu128 a b)))

/-- `LTE.U` (R136): 1 if c != +1 else 0, with c = cmpu128(req.A, req.B). -/
def execLteU (a b : Wide) (s : State) : Host.Outcome State Fault Refusal :=
  s.answerS (boolS (isLte (cmpu128 a b)))

/-- `GT.U` (R137): 1 if c = +1 else 0, with c = cmpu128(req.A, req.B). -/
def execGtU (a b : Wide) (s : State) : Host.Outcome State Fault Refusal :=
  s.answerS (boolS (isGt (cmpu128 a b)))

/-- `GTE.U` (R138): 1 if c != -1 else 0, with c = cmpu128(req.A, req.B). -/
def execGteU (a b : Wide) (s : State) : Host.Outcome State Fault Refusal :=
  s.answerS (boolS (isGte (cmpu128 a b)))

/-- `CMP.I` (R139): rsp.S <- sext_64(c) with c = cmps128(req.A, req.B). -/
def execCmpI (a b : Wide) (s : State) : Host.Outcome State Fault Refusal :=
  s.answerS (threeWayS (cmps128 a b))

/-- `EQ.I` (R140): 1 if c = 0 else 0, with c = cmps128(req.A, req.B). -/
def execEqI (a b : Wide) (s : State) : Host.Outcome State Fault Refusal :=
  s.answerS (boolS (isEq (cmps128 a b)))

/-- `LT.I` (R141): 1 if c = -1 else 0, with c = cmps128(req.A, req.B). -/
def execLtI (a b : Wide) (s : State) : Host.Outcome State Fault Refusal :=
  s.answerS (boolS (isLt (cmps128 a b)))

/-- `LTE.I` (R142): 1 if c != +1 else 0, with c = cmps128(req.A, req.B). -/
def execLteI (a b : Wide) (s : State) : Host.Outcome State Fault Refusal :=
  s.answerS (boolS (isLte (cmps128 a b)))

/-- `GT.I` (R143): 1 if c = +1 else 0, with c = cmps128(req.A, req.B). -/
def execGtI (a b : Wide) (s : State) : Host.Outcome State Fault Refusal :=
  s.answerS (boolS (isGt (cmps128 a b)))

/-- `GTE.I` (R144): 1 if c != -1 else 0, with c = cmps128(req.A, req.B). -/
def execGteI (a b : Wide) (s : State) : Host.Outcome State Fault Refusal :=
  s.answerS (boolS (isGte (cmps128 a b)))

/-- `ABSCMP.I` (R145): rsp.S <- sext_64(c) with c = cmpu128(absmag(req.A), absmag(req.B)) (D22). -/
def execAbscmpI (a b : Wide) (s : State) : Host.Outcome State Fault Refusal :=
  s.answerS (threeWayS (cmpabs128 Config.abscmpReading a b))

/-- `ABSEQ.I` (R146): 1 if c = 0 else 0, with c = cmpu128(absmag(req.A), absmag(req.B)) (D22). -/
def execAbseqI (a b : Wide) (s : State) : Host.Outcome State Fault Refusal :=
  s.answerS (boolS (isEq (cmpabs128 Config.abscmpReading a b)))

/-- `ABSLT.I` (R147): 1 if c = -1 else 0, with c = cmpu128(absmag(req.A), absmag(req.B)) (D22). -/
def execAbsltI (a b : Wide) (s : State) : Host.Outcome State Fault Refusal :=
  s.answerS (boolS (isLt (cmpabs128 Config.abscmpReading a b)))

/-- `ABSLTE.I` (R148): 1 if c != +1 else 0, with c = cmpu128(absmag(req.A), absmag(req.B)) (D22). -/
def execAbslteI (a b : Wide) (s : State) : Host.Outcome State Fault Refusal :=
  s.answerS (boolS (isLte (cmpabs128 Config.abscmpReading a b)))

/-- `ABSGT.I` (R149): 1 if c = +1 else 0, with c = cmpu128(absmag(req.A), absmag(req.B)) (D22). -/
def execAbsgtI (a b : Wide) (s : State) : Host.Outcome State Fault Refusal :=
  s.answerS (boolS (isGt (cmpabs128 Config.abscmpReading a b)))

/-- `ABSGTE.I` (R150): 1 if c != -1 else 0, with c = cmpu128(absmag(req.A), absmag(req.B)) (D22). -/
def execAbsgteI (a b : Wide) (s : State) : Host.Outcome State Fault Refusal :=
  s.answerS (boolS (isGte (cmpabs128 Config.abscmpReading a b)))

end Sys2Proof.Machine
end

