-- ==== Sys2Proof/Machine/Convert.lean ====
section
/-! DEFINITION. Conversions and predicates (48_convert_predicates): one meaning per instruction, over the shared operations. -/

namespace Sys2Proof.Machine

/-- `FROMU64.U` (R232): rsp.Z <- widen_u(req.N). -/
def execFromu64U (n : Word) (s : State) : Host.Outcome State Fault Refusal :=
  s.answerZ (widenU n)

/-- `FROMI64.U` (R233): rsp.Z <- widen_s(req.N) (D25). -/
def execFromi64U (n : Word) (s : State) : Host.Outcome State Fault Refusal :=
  s.answerZ (widenS n)

/-- `TOU64.U` (R234): rsp.S <- narrow(req.A). -/
def execTou64U (a : Wide) (s : State) : Host.Outcome State Fault Refusal :=
  s.answerS (narrow a)

/-- `TOI64.U` (R235): rsp.S <- narrow(req.A). -/
def execToi64U (a : Wide) (s : State) : Host.Outcome State Fault Refusal :=
  s.answerS (narrow a)

/-- `TOSIGNED.U` (R236): rsp.Z <- req.A. -/
def execTosignedU (a : Wide) (s : State) : Host.Outcome State Fault Refusal :=
  s.answerZ (reinterp a)

/-- `FITSS64.U` (R237): 1 when the value is in the range of the 64-bit type (D24), else 0. -/
def execFitss64U (a : Wide) (s : State) : Host.Outcome State Fault Refusal :=
  s.answerS (boolS (fitsS64U a))

/-- `FITSU64.U` (R238): 1 when the value is in the range of the 64-bit type (D24), else 0. -/
def execFitsu64U (a : Wide) (s : State) : Host.Outcome State Fault Refusal :=
  s.answerS (boolS (fitsU64U a))

/-- `FROMU64.I` (R242): rsp.Z <- widen_u(req.N). -/
def execFromu64I (n : Word) (s : State) : Host.Outcome State Fault Refusal :=
  s.answerZ (widenU n)

/-- `FROMI64.I` (R243): rsp.Z <- widen_s(req.N) (D25). -/
def execFromi64I (n : Word) (s : State) : Host.Outcome State Fault Refusal :=
  s.answerZ (widenS n)

/-- `TOU64.I` (R244): rsp.S <- narrow(req.A). -/
def execTou64I (a : Wide) (s : State) : Host.Outcome State Fault Refusal :=
  s.answerS (narrow a)

/-- `TOI64.I` (R245): rsp.S <- narrow(req.A). -/
def execToi64I (a : Wide) (s : State) : Host.Outcome State Fault Refusal :=
  s.answerS (narrow a)

/-- `TOUNSIGNED.I` (R246): rsp.Z <- req.A. -/
def execTounsignedI (a : Wide) (s : State) : Host.Outcome State Fault Refusal :=
  s.answerZ (reinterp a)

/-- `FITSS64.I` (R247): 1 when the value is in the range of the 64-bit type (D24), else 0. -/
def execFitss64I (a : Wide) (s : State) : Host.Outcome State Fault Refusal :=
  s.answerS (boolS (fitsS64I a))

/-- `FITSU64.I` (R248): 1 when the value is in the range of the 64-bit type (D24), else 0. -/
def execFitsu64I (a : Wide) (s : State) : Host.Outcome State Fault Refusal :=
  s.answerS (boolS (fitsU64I a))

/-- `ISNEG.I` (R249): rsp.S <- req.A[127] (D23). -/
def execIsnegI (a : Wide) (s : State) : Host.Outcome State Fault Refusal :=
  s.answerS (boolS (isNeg a))

/-- `ISPOS.I` (R250): 1 when strictly positive (D23). -/
def execIsposI (a : Wide) (s : State) : Host.Outcome State Fault Refusal :=
  s.answerS (boolS (isPos Config.isposZero a))

/-- `SIGN.I` (R251): -1, 0 or +1 (D23). -/
def execSignI (a : Wide) (s : State) : Host.Outcome State Fault Refusal :=
  s.answerS (threeWayS (signThreeWay a))

end Sys2Proof.Machine
end

