-- ==== Sys2Proof/Machine/DivideSigned.lean ====
section
/-! DEFINITION. Signed divider (47_divide_signed): one meaning per instruction, over the shared operations. -/

namespace Sys2Proof.Machine

/-- `DIVMOD.I` (R222): DivisionByZero for a zero divisor, else the quotient on Z, remainder on R. -/
def execDivmodI (a b : Wide) (s : State) : Host.Outcome State Fault Refusal :=
  s.divideSigned (fun q r => { Z := q, R := r }) a b

/-- `DIV.I` (R223): DivisionByZero for a zero divisor, else the quotient on Z. -/
def execDivI (a b : Wide) (s : State) : Host.Outcome State Fault Refusal :=
  s.divideSigned (fun q _ => { Z := q }) a b

/-- `MOD.I` (R224): DivisionByZero for a zero divisor, else the remainder on Z. -/
def execModI (a b : Wide) (s : State) : Host.Outcome State Fault Refusal :=
  s.divideSigned (fun _ r => { Z := r }) a b

end Sys2Proof.Machine
end

