-- ==== Sys2Proof/Machine/DivideUnsigned.lean ====
section
/-! DEFINITION. Unsigned divider (46_divide_unsigned): one meaning per instruction, over the shared operations. -/

namespace Sys2Proof.Machine

/-- `DIVMOD.U` (R208): DivisionByZero for a zero divisor, else the quotient on Z, remainder on R. -/
def execDivmodU (a b : Wide) (s : State) : Host.Outcome State Fault Refusal :=
  s.divideUnsigned (fun q r => { Z := q, R := r }) a b

/-- `DIV.U` (R209): DivisionByZero for a zero divisor, else the quotient on Z. -/
def execDivU (a b : Wide) (s : State) : Host.Outcome State Fault Refusal :=
  s.divideUnsigned (fun q _ => { Z := q }) a b

/-- `MOD.U` (R210): DivisionByZero for a zero divisor, else the remainder on Z. -/
def execModU (a b : Wide) (s : State) : Host.Outcome State Fault Refusal :=
  s.divideUnsigned (fun _ r => { Z := r }) a b

end Sys2Proof.Machine
end

