-- ==== Sys2Proof/Machine/Multiply.lean ====
section
/-! DEFINITION. Multiplier (44_multiply): one meaning per instruction, over the shared operations. -/

namespace Sys2Proof.Machine

/-- `MUL.U` (R182): rsp.Z <- mul128(req.A, req.B). -/
def execMulU (a b : Wide) (s : State) : Host.Outcome State Fault Refusal :=
  s.multiply a b

/-- `MUL.I` (R183): rsp.Z <- mul128(req.A, req.B). -/
def execMulI (a b : Wide) (s : State) : Host.Outcome State Fault Refusal :=
  s.multiply a b

end Sys2Proof.Machine
end

