-- ==== Sys2Proof/Machine/Shift.lean ====
section
/-! DEFINITION. Barrel shifter (43_shift): one meaning per instruction, over the shared operations. -/

namespace Sys2Proof.Machine

/-- `LSHIFT.U` (R164): shl128(req.A, 1). -/
def execLshiftU (a : Wide) (s : State) : Host.Outcome State Fault Refusal :=
  s.answerZ (shl128 a amountOne)

/-- `LSHIFTN.U` (R165): shl128(req.A, uval(req.N)). -/
def execLshiftnU (a : Wide) (n : Word) (s : State) : Host.Outcome State Fault Refusal :=
  s.answerZ (shl128 a (amountN n))

/-- `RSHIFT.U` (R166): shr128(req.A, 1). -/
def execRshiftU (a : Wide) (s : State) : Host.Outcome State Fault Refusal :=
  s.answerZ (shr128 a amountOne)

/-- `RSHIFTN.U` (R167): shr128(req.A, uval(req.N)). -/
def execRshiftnU (a : Wide) (n : Word) (s : State) : Host.Outcome State Fault Refusal :=
  s.answerZ (shr128 a (amountN n))

/-- `RSHIFTV.U` (R168): ZERO for an amount of 128 or more, else shr128. -/
def execRshiftvU (a b : Wide) (s : State) : Host.Outcome State Fault Refusal :=
  s.answerZ (shrByValue a b)

/-- `LSHIFT.I` (R169): shl128(req.A, 1). -/
def execLshiftI (a : Wide) (s : State) : Host.Outcome State Fault Refusal :=
  s.answerZ (shl128 a amountOne)

/-- `LSHIFTN.I` (R170): shl128(req.A, uval(req.N)). -/
def execLshiftnI (a : Wide) (n : Word) (s : State) : Host.Outcome State Fault Refusal :=
  s.answerZ (shl128 a (amountN n))

/-- `RSHIFT.I` (R171): sar128(req.A, 1) (D21). -/
def execRshiftI (a : Wide) (s : State) : Host.Outcome State Fault Refusal :=
  s.answerZ (sar128 a amountOne)

/-- `RSHIFTN.I` (R172): sar128(req.A, uval(req.N)). -/
def execRshiftnI (a : Wide) (n : Word) (s : State) : Host.Outcome State Fault Refusal :=
  s.answerZ (sar128 a (amountN n))

/-- `RSHIFTV.I` (R173): all copies of the sign for an amount of 128 or more (D21), else sar128. -/
def execRshiftvI (a b : Wide) (s : State) : Host.Outcome State Fault Refusal :=
  s.answerZ (sarByValue Config.rshiftvIRange a b)

end Sys2Proof.Machine
end

