-- ==== Sys2Proof/Syntax.lean ====
section
/-! DEFINITION. The 78 operations of 30_encoding R62, each with the request fields it reads: `a` is
`A`, `b` is `B`, `n` is `N` (10_state R23). A request field an operation does not read is no part of
the instruction (R65). Every operand pattern is legal (R29, R30, R307). -/

namespace Sys2Proof

/-- One transaction's operation with its operands, in the order of the opcode table. -/
inductive Instr where
  /-- `ADD.U` (R103). -/
  | addU (a b : Wide)
  /-- `SUB.U` (R104). -/
  | subU (a b : Wide)
  /-- `NEG.U` (R105). -/
  | negU (a : Wide)
  /-- `AND.U` (R112). -/
  | andU (a b : Wide)
  /-- `ANDNOT.U` (R113). -/
  | andnotU (a b : Wide)
  /-- `OR.U` (R114). -/
  | orU (a b : Wide)
  /-- `NOR.U` (R115). -/
  | norU (a b : Wide)
  /-- `NAND.U` (R116). -/
  | nandU (a b : Wide)
  /-- `XOR.U` (R117). -/
  | xorU (a b : Wide)
  /-- `XNOR.U` (R118). -/
  | xnorU (a b : Wide)
  /-- `NOT.U` (R119). -/
  | notU (a : Wide)
  /-- `CMP.U` (R133). -/
  | cmpU (a b : Wide)
  /-- `EQ.U` (R134). -/
  | eqU (a b : Wide)
  /-- `LT.U` (R135). -/
  | ltU (a b : Wide)
  /-- `LTE.U` (R136). -/
  | lteU (a b : Wide)
  /-- `GT.U` (R137). -/
  | gtU (a b : Wide)
  /-- `GTE.U` (R138). -/
  | gteU (a b : Wide)
  /-- `LSHIFT.U` (R164). -/
  | lshiftU (a : Wide)
  /-- `LSHIFTN.U` (R165). -/
  | lshiftnU (a : Wide) (n : Word)
  /-- `RSHIFT.U` (R166). -/
  | rshiftU (a : Wide)
  /-- `RSHIFTN.U` (R167). -/
  | rshiftnU (a : Wide) (n : Word)
  /-- `RSHIFTV.U` (R168). -/
  | rshiftvU (a b : Wide)
  /-- `MUL.U` (R182). -/
  | mulU (a b : Wide)
  /-- `DIVMOD.U` (R208). -/
  | divmodU (a b : Wide)
  /-- `DIV.U` (R209). -/
  | divU (a b : Wide)
  /-- `MOD.U` (R210). -/
  | modU (a b : Wide)
  /-- `BITLEN.U` (R194). -/
  | bitlenU (a : Wide)
  /-- `BITLEN64` (R193). -/
  | bitlen64 (n : Word)
  /-- `FROMU64.U` (R232). -/
  | fromu64U (n : Word)
  /-- `FROMI64.U` (R233). -/
  | fromi64U (n : Word)
  /-- `TOU64.U` (R234). -/
  | tou64U (a : Wide)
  /-- `TOI64.U` (R235). -/
  | toi64U (a : Wide)
  /-- `TOSIGNED.U` (R236). -/
  | tosignedU (a : Wide)
  /-- `FITSS64.U` (R237). -/
  | fitss64U (a : Wide)
  /-- `FITSU64.U` (R238). -/
  | fitsu64U (a : Wide)
  /-- `ADD.I` (R106). -/
  | addI (a b : Wide)
  /-- `SUB.I` (R107). -/
  | subI (a b : Wide)
  /-- `NEG.I` (R108). -/
  | negI (a : Wide)
  /-- `ABS.I` (R109). -/
  | absI (a : Wide)
  /-- `AND.I` (R120). -/
  | andI (a b : Wide)
  /-- `ANDNOT.I` (R121). -/
  | andnotI (a b : Wide)
  /-- `OR.I` (R122). -/
  | orI (a b : Wide)
  /-- `NOR.I` (R123). -/
  | norI (a b : Wide)
  /-- `NAND.I` (R124). -/
  | nandI (a b : Wide)
  /-- `XOR.I` (R125). -/
  | xorI (a b : Wide)
  /-- `XNOR.I` (R126). -/
  | xnorI (a b : Wide)
  /-- `NOT.I` (R127). -/
  | notI (a : Wide)
  /-- `CMP.I` (R139). -/
  | cmpI (a b : Wide)
  /-- `EQ.I` (R140). -/
  | eqI (a b : Wide)
  /-- `LT.I` (R141). -/
  | ltI (a b : Wide)
  /-- `LTE.I` (R142). -/
  | lteI (a b : Wide)
  /-- `GT.I` (R143). -/
  | gtI (a b : Wide)
  /-- `GTE.I` (R144). -/
  | gteI (a b : Wide)
  /-- `ABSCMP.I` (R145). -/
  | abscmpI (a b : Wide)
  /-- `ABSEQ.I` (R146). -/
  | abseqI (a b : Wide)
  /-- `ABSLT.I` (R147). -/
  | absltI (a b : Wide)
  /-- `ABSLTE.I` (R148). -/
  | abslteI (a b : Wide)
  /-- `ABSGT.I` (R149). -/
  | absgtI (a b : Wide)
  /-- `ABSGTE.I` (R150). -/
  | absgteI (a b : Wide)
  /-- `LSHIFT.I` (R169). -/
  | lshiftI (a : Wide)
  /-- `LSHIFTN.I` (R170). -/
  | lshiftnI (a : Wide) (n : Word)
  /-- `RSHIFT.I` (R171). -/
  | rshiftI (a : Wide)
  /-- `RSHIFTN.I` (R172). -/
  | rshiftnI (a : Wide) (n : Word)
  /-- `RSHIFTV.I` (R173). -/
  | rshiftvI (a b : Wide)
  /-- `MUL.I` (R183). -/
  | mulI (a b : Wide)
  /-- `DIVMOD.I` (R222). -/
  | divmodI (a b : Wide)
  /-- `DIV.I` (R223). -/
  | divI (a b : Wide)
  /-- `MOD.I` (R224). -/
  | modI (a b : Wide)
  /-- `FROMU64.I` (R242). -/
  | fromu64I (n : Word)
  /-- `FROMI64.I` (R243). -/
  | fromi64I (n : Word)
  /-- `TOU64.I` (R244). -/
  | tou64I (a : Wide)
  /-- `TOI64.I` (R245). -/
  | toi64I (a : Wide)
  /-- `TOUNSIGNED.I` (R246). -/
  | tounsignedI (a : Wide)
  /-- `FITSS64.I` (R247). -/
  | fitss64I (a : Wide)
  /-- `FITSU64.I` (R248). -/
  | fitsu64I (a : Wide)
  /-- `ISNEG.I` (R249). -/
  | isnegI (a : Wide)
  /-- `ISPOS.I` (R250). -/
  | isposI (a : Wide)
  /-- `SIGN.I` (R251). -/
  | signI (a : Wide)
deriving DecidableEq, Repr

end Sys2Proof
end

