-- ==== Sys2Proof/Machine/Dispatch.lean ====
section
/-! DEFINITION. One arm per instruction: a direct call of its meaning. -/

namespace Sys2Proof.Machine

def exec (i : Instr) (s : State) : Host.Outcome State Fault Refusal :=
  match i with
  | .addU a b => Sys2Proof.Machine.execAddU a b s
  | .subU a b => Sys2Proof.Machine.execSubU a b s
  | .negU a => Sys2Proof.Machine.execNegU a s
  | .andU a b => Sys2Proof.Machine.execAndU a b s
  | .andnotU a b => Sys2Proof.Machine.execAndnotU a b s
  | .orU a b => Sys2Proof.Machine.execOrU a b s
  | .norU a b => Sys2Proof.Machine.execNorU a b s
  | .nandU a b => Sys2Proof.Machine.execNandU a b s
  | .xorU a b => Sys2Proof.Machine.execXorU a b s
  | .xnorU a b => Sys2Proof.Machine.execXnorU a b s
  | .notU a => Sys2Proof.Machine.execNotU a s
  | .cmpU a b => Sys2Proof.Machine.execCmpU a b s
  | .eqU a b => Sys2Proof.Machine.execEqU a b s
  | .ltU a b => Sys2Proof.Machine.execLtU a b s
  | .lteU a b => Sys2Proof.Machine.execLteU a b s
  | .gtU a b => Sys2Proof.Machine.execGtU a b s
  | .gteU a b => Sys2Proof.Machine.execGteU a b s
  | .lshiftU a => Sys2Proof.Machine.execLshiftU a s
  | .lshiftnU a n => Sys2Proof.Machine.execLshiftnU a n s
  | .rshiftU a => Sys2Proof.Machine.execRshiftU a s
  | .rshiftnU a n => Sys2Proof.Machine.execRshiftnU a n s
  | .rshiftvU a b => Sys2Proof.Machine.execRshiftvU a b s
  | .mulU a b => Sys2Proof.Machine.execMulU a b s
  | .divmodU a b => Sys2Proof.Machine.execDivmodU a b s
  | .divU a b => Sys2Proof.Machine.execDivU a b s
  | .modU a b => Sys2Proof.Machine.execModU a b s
  | .bitlenU a => Sys2Proof.Machine.execBitlenU a s
  | .bitlen64 n => Sys2Proof.Machine.execBitlen64 n s
  | .fromu64U n => Sys2Proof.Machine.execFromu64U n s
  | .fromi64U n => Sys2Proof.Machine.execFromi64U n s
  | .tou64U a => Sys2Proof.Machine.execTou64U a s
  | .toi64U a => Sys2Proof.Machine.execToi64U a s
  | .tosignedU a => Sys2Proof.Machine.execTosignedU a s
  | .fitss64U a => Sys2Proof.Machine.execFitss64U a s
  | .fitsu64U a => Sys2Proof.Machine.execFitsu64U a s
  | .addI a b => Sys2Proof.Machine.execAddI a b s
  | .subI a b => Sys2Proof.Machine.execSubI a b s
  | .negI a => Sys2Proof.Machine.execNegI a s
  | .absI a => Sys2Proof.Machine.execAbsI a s
  | .andI a b => Sys2Proof.Machine.execAndI a b s
  | .andnotI a b => Sys2Proof.Machine.execAndnotI a b s
  | .orI a b => Sys2Proof.Machine.execOrI a b s
  | .norI a b => Sys2Proof.Machine.execNorI a b s
  | .nandI a b => Sys2Proof.Machine.execNandI a b s
  | .xorI a b => Sys2Proof.Machine.execXorI a b s
  | .xnorI a b => Sys2Proof.Machine.execXnorI a b s
  | .notI a => Sys2Proof.Machine.execNotI a s
  | .cmpI a b => Sys2Proof.Machine.execCmpI a b s
  | .eqI a b => Sys2Proof.Machine.execEqI a b s
  | .ltI a b => Sys2Proof.Machine.execLtI a b s
  | .lteI a b => Sys2Proof.Machine.execLteI a b s
  | .gtI a b => Sys2Proof.Machine.execGtI a b s
  | .gteI a b => Sys2Proof.Machine.execGteI a b s
  | .abscmpI a b => Sys2Proof.Machine.execAbscmpI a b s
  | .abseqI a b => Sys2Proof.Machine.execAbseqI a b s
  | .absltI a b => Sys2Proof.Machine.execAbsltI a b s
  | .abslteI a b => Sys2Proof.Machine.execAbslteI a b s
  | .absgtI a b => Sys2Proof.Machine.execAbsgtI a b s
  | .absgteI a b => Sys2Proof.Machine.execAbsgteI a b s
  | .lshiftI a => Sys2Proof.Machine.execLshiftI a s
  | .lshiftnI a n => Sys2Proof.Machine.execLshiftnI a n s
  | .rshiftI a => Sys2Proof.Machine.execRshiftI a s
  | .rshiftnI a n => Sys2Proof.Machine.execRshiftnI a n s
  | .rshiftvI a b => Sys2Proof.Machine.execRshiftvI a b s
  | .mulI a b => Sys2Proof.Machine.execMulI a b s
  | .divmodI a b => Sys2Proof.Machine.execDivmodI a b s
  | .divI a b => Sys2Proof.Machine.execDivI a b s
  | .modI a b => Sys2Proof.Machine.execModI a b s
  | .fromu64I n => Sys2Proof.Machine.execFromu64I n s
  | .fromi64I n => Sys2Proof.Machine.execFromi64I n s
  | .tou64I a => Sys2Proof.Machine.execTou64I a s
  | .toi64I a => Sys2Proof.Machine.execToi64I a s
  | .tounsignedI a => Sys2Proof.Machine.execTounsignedI a s
  | .fitss64I a => Sys2Proof.Machine.execFitss64I a s
  | .fitsu64I a => Sys2Proof.Machine.execFitsu64I a s
  | .isnegI a => Sys2Proof.Machine.execIsnegI a s
  | .isposI a => Sys2Proof.Machine.execIsposI a s
  | .signI a => Sys2Proof.Machine.execSignI a s

end Sys2Proof.Machine
end

