-- ==== Sys2Proof/WellFormed.lean ====
section
/-! DEFINITION. Which requests a host may issue (30_encoding R61, R62, R64, R65, R69, R80), stated by
group and function, apart from the decoder's table. An instruction itself has no ill-formed term:
every operand pattern is valid (R29, R30). -/

namespace Sys2Proof

/-- The subfields of `OP` (R61): the signed engine's bit, the group, the function. -/
def opSigned (op : BitVec 8) : Bool := op.getLsbD 7
def opGroup (op : BitVec 8) : Nat := (op.extractLsb' 4 3).toNat
def opFunction (op : BitVec 8) : Nat := (op.extractLsb' 0 4).toNat

/-- Whether `OP` is one of the 78 codes (R62, R64, R69). -/
def opLegal (op : BitVec 8) : Bool :=
  let t := opSigned op
  let fn := opFunction op
  match opGroup op with
  | 0 => decide (fn ≤ 2) || (t && decide (fn = 3))
  | 1 => decide (fn ≤ 7)
  | 2 => decide (fn ≤ 5) || (t && decide (8 ≤ fn ∧ fn ≤ 13))
  | 3 => decide (fn ≤ 4)
  | 4 => decide (fn ≤ 3)
  | 5 => !t && decide (fn ≤ 1)
  | 6 => decide (fn ≤ 6) || (t && decide (8 ≤ fn ∧ fn ≤ 10))
  | _ => false

/-- The "reads" column of R62: whether the operation reads `N`, `A`, `B`. -/
def opReadsN (op : BitVec 8) : Bool :=
  opLegal op &&
    match opGroup op with
    | 3 => decide (opFunction op = 1 ∨ opFunction op = 3)
    | 5 => decide (opFunction op = 1)
    | 6 => decide (opFunction op ≤ 1)
    | _ => false

def opReadsA (op : BitVec 8) : Bool :=
  opLegal op &&
    match opGroup op with
    | 5 => decide (opFunction op = 0)
    | 6 => decide (2 ≤ opFunction op)
    | _ => true

def opReadsB (op : BitVec 8) : Bool :=
  opLegal op &&
    match opGroup op with
    | 0 => decide (opFunction op ≤ 1)
    | 1 => decide (opFunction op ≠ 7)
    | 2 => true
    | 3 => decide (opFunction op = 4)
    | 4 => true
    | _ => false

/-- The "writes" column of R62: whether the operation drives `Z`, `R`, `S`, and `ERR` (the six
divisions, R300). -/
def opWritesZ (op : BitVec 8) : Bool :=
  opLegal op &&
    match opGroup op with
    | 0 | 1 | 3 | 4 => true
    | 6 => decide (opFunction op ≤ 1 ∨ opFunction op = 4)
    | _ => false

def opWritesR (op : BitVec 8) : Bool := opLegal op && decide (opGroup op = 4 ∧ opFunction op = 1)

def opWritesS (op : BitVec 8) : Bool :=
  opLegal op &&
    match opGroup op with
    | 2 | 5 => true
    | 6 => decide (2 ≤ opFunction op ∧ opFunction op ≠ 4)
    | _ => false

def opMayErr (op : BitVec 8) : Bool := opLegal op && decide (opGroup op = 4 ∧ 1 ≤ opFunction op)

namespace Machine

/-- The check of R69: the operation code is not reserved. -/
def Request.legal (r : Request) : Bool := opLegal r.OP

/-- The check of R80: the assembler writes zero in every field the operation does not read. -/
def Request.unreadZero (r : Request) : Bool :=
  (opReadsA r.OP || decide (r.A = 0)) && (opReadsB r.OP || decide (r.B = 0)) &&
    (opReadsN r.OP || decide (r.N = 0))

/-- A request as the assembler of R80 writes it. -/
def Request.wellFormed (r : Request) : Bool := r.legal && r.unreadZero

end Machine

end Sys2Proof
end

