-- ==== Sys2Proof/Decode.lean ====
section
/-! DEFINITION. The request and response words (30_encoding R60, R63), the decoder of the operation
code (R62), which refuses reserved codes by name (R69), and the encoder written from the same table,
with zero in every field the operation does not read (R80). -/

namespace Sys2Proof

open Sys2Proof.Machine (Request Response)

/-- Why a request word is no instruction. -/
inductive DecodeError where
  /-- `OP` is one of the 178 reserved codes (R69). -/
  | reservedOpcode (op : BitVec 8)
deriving DecidableEq, Repr

/-- The 328-bit `REQ` word (R60): `OP` in bits 327:320, `A` in 319:192, `B` in 191:64, `N` in 63:0. -/
def requestWord (r : Request) : BitVec 328 := r.OP ++ r.A ++ r.B ++ r.N

/-- The fields of a `REQ` word (R60). -/
def requestOfWord (w : BitVec 328) : Request :=
  { OP := w.extractLsb' 320 8
    A := w.extractLsb' 192 128
    B := w.extractLsb' 64 128
    N := w.extractLsb' 0 64 }

/-- The 321-bit `RSP` word (R63): `ERR` in bit 320, `Z` in 319:192, `R` in 191:64, `S` in 63:0. -/
def responseWord (r : Response) : BitVec 321 := r.ERR ++ r.Z ++ r.R ++ r.S

/-- The fields of a `RSP` word (R63). -/
def responseOfWord (w : BitVec 321) : Response :=
  { ERR := w.extractLsb' 320 1
    Z := w.extractLsb' 192 128
    R := w.extractLsb' 64 128
    S := w.extractLsb' 0 64 }

/-- Group 0 of the unsigned engine: add, subtract, negate (R62). -/
def codesAddSubU : List (BitVec 8 × (Request → Instr)) :=
  [ (0x00, fun r => .addU r.A r.B)
    , (0x01, fun r => .subU r.A r.B)
    , (0x02, fun r => .negU r.A) ]

/-- Group 1 of the unsigned engine: bitwise (R62). -/
def codesBitwiseU : List (BitVec 8 × (Request → Instr)) :=
  [ (0x10, fun r => .andU r.A r.B)
    , (0x11, fun r => .andnotU r.A r.B)
    , (0x12, fun r => .orU r.A r.B)
    , (0x13, fun r => .norU r.A r.B)
    , (0x14, fun r => .nandU r.A r.B)
    , (0x15, fun r => .xorU r.A r.B)
    , (0x16, fun r => .xnorU r.A r.B)
    , (0x17, fun r => .notU r.A) ]

/-- Group 2 of the unsigned engine: compare (R62). -/
def codesCompareU : List (BitVec 8 × (Request → Instr)) :=
  [ (0x20, fun r => .cmpU r.A r.B)
    , (0x21, fun r => .eqU r.A r.B)
    , (0x22, fun r => .ltU r.A r.B)
    , (0x23, fun r => .lteU r.A r.B)
    , (0x24, fun r => .gtU r.A r.B)
    , (0x25, fun r => .gteU r.A r.B) ]

/-- Group 3 of the unsigned engine: shift (R62). -/
def codesShiftU : List (BitVec 8 × (Request → Instr)) :=
  [ (0x30, fun r => .lshiftU r.A)
    , (0x31, fun r => .lshiftnU r.A r.N)
    , (0x32, fun r => .rshiftU r.A)
    , (0x33, fun r => .rshiftnU r.A r.N)
    , (0x34, fun r => .rshiftvU r.A r.B) ]

/-- Group 4 of the unsigned engine: multiply and divide (R62). -/
def codesMulDivU : List (BitVec 8 × (Request → Instr)) :=
  [ (0x40, fun r => .mulU r.A r.B)
    , (0x41, fun r => .divmodU r.A r.B)
    , (0x42, fun r => .divU r.A r.B)
    , (0x43, fun r => .modU r.A r.B) ]

/-- Group 5 of the unsigned engine: bit length (R62). -/
def codesLengthU : List (BitVec 8 × (Request → Instr)) :=
  [ (0x50, fun r => .bitlenU r.A)
    , (0x51, fun r => .bitlen64 r.N) ]

/-- Group 6 of the unsigned engine: convert and predicates (R62). -/
def codesConvertU : List (BitVec 8 × (Request → Instr)) :=
  [ (0x60, fun r => .fromu64U r.N)
    , (0x61, fun r => .fromi64U r.N)
    , (0x62, fun r => .tou64U r.A)
    , (0x63, fun r => .toi64U r.A)
    , (0x64, fun r => .tosignedU r.A)
    , (0x65, fun r => .fitss64U r.A)
    , (0x66, fun r => .fitsu64U r.A) ]

/-- Group 0 of the signed engine: add, subtract, negate (R62). -/
def codesAddSubI : List (BitVec 8 × (Request → Instr)) :=
  [ (0x80, fun r => .addI r.A r.B)
    , (0x81, fun r => .subI r.A r.B)
    , (0x82, fun r => .negI r.A)
    , (0x83, fun r => .absI r.A) ]

/-- Group 1 of the signed engine: bitwise (R62). -/
def codesBitwiseI : List (BitVec 8 × (Request → Instr)) :=
  [ (0x90, fun r => .andI r.A r.B)
    , (0x91, fun r => .andnotI r.A r.B)
    , (0x92, fun r => .orI r.A r.B)
    , (0x93, fun r => .norI r.A r.B)
    , (0x94, fun r => .nandI r.A r.B)
    , (0x95, fun r => .xorI r.A r.B)
    , (0x96, fun r => .xnorI r.A r.B)
    , (0x97, fun r => .notI r.A) ]

/-- Group 2 of the signed engine: compare (R62). -/
def codesCompareI : List (BitVec 8 × (Request → Instr)) :=
  [ (0xA0, fun r => .cmpI r.A r.B)
    , (0xA1, fun r => .eqI r.A r.B)
    , (0xA2, fun r => .ltI r.A r.B)
    , (0xA3, fun r => .lteI r.A r.B)
    , (0xA4, fun r => .gtI r.A r.B)
    , (0xA5, fun r => .gteI r.A r.B)
    , (0xA8, fun r => .abscmpI r.A r.B)
    , (0xA9, fun r => .abseqI r.A r.B)
    , (0xAA, fun r => .absltI r.A r.B)
    , (0xAB, fun r => .abslteI r.A r.B)
    , (0xAC, fun r => .absgtI r.A r.B)
    , (0xAD, fun r => .absgteI r.A r.B) ]

/-- Group 3 of the signed engine: shift (R62). -/
def codesShiftI : List (BitVec 8 × (Request → Instr)) :=
  [ (0xB0, fun r => .lshiftI r.A)
    , (0xB1, fun r => .lshiftnI r.A r.N)
    , (0xB2, fun r => .rshiftI r.A)
    , (0xB3, fun r => .rshiftnI r.A r.N)
    , (0xB4, fun r => .rshiftvI r.A r.B) ]

/-- Group 4 of the signed engine: multiply and divide (R62). -/
def codesMulDivI : List (BitVec 8 × (Request → Instr)) :=
  [ (0xC0, fun r => .mulI r.A r.B)
    , (0xC1, fun r => .divmodI r.A r.B)
    , (0xC2, fun r => .divI r.A r.B)
    , (0xC3, fun r => .modI r.A r.B) ]

/-- Group 6 of the signed engine: convert and predicates (R62). -/
def codesConvertI : List (BitVec 8 × (Request → Instr)) :=
  [ (0xE0, fun r => .fromu64I r.N)
    , (0xE1, fun r => .fromi64I r.N)
    , (0xE2, fun r => .tou64I r.A)
    , (0xE3, fun r => .toi64I r.A)
    , (0xE4, fun r => .tounsignedI r.A)
    , (0xE5, fun r => .fitss64I r.A)
    , (0xE6, fun r => .fitsu64I r.A)
    , (0xE8, fun r => .isnegI r.A)
    , (0xE9, fun r => .isposI r.A)
    , (0xEA, fun r => .signI r.A) ]

/-- The 78 operation codes and the operand fields each reads (R62). -/
def decodeTable : List (BitVec 8 × (Request → Instr)) :=
  codesAddSubU ++ codesBitwiseU ++ codesCompareU ++ codesShiftU ++
    codesMulDivU ++ codesLengthU ++ codesConvertU ++ codesAddSubI ++
    codesBitwiseI ++ codesCompareI ++ codesShiftI ++ codesMulDivI ++
    codesConvertI

/-- The row of a code in a table of codes. -/
def lookupCode (op : BitVec 8) : List (BitVec 8 × (Request → Instr)) → Option (Request → Instr)
  | [] => none
  | row :: rows => if row.1 = op then some row.2 else lookupCode op rows

/-- The decoder on the fields of a request: only `OP` decodes (R62), a reserved code is refused
(R69). -/
def decodeRequest (r : Request) : Except DecodeError Instr :=
  match lookupCode r.OP decodeTable with
  | some form => .ok (form r)
  | none => .error (.reservedOpcode r.OP)

/-- The decoder on a `REQ` word. -/
def decode (w : BitVec 328) : Except DecodeError Instr := decodeRequest (requestOfWord w)

/-- The request of an instruction (R62, R80). -/
def encodeRequest : Instr → Request
  | .addU a b => { OP := 0x00, A := a, B := b }
  | .subU a b => { OP := 0x01, A := a, B := b }
  | .negU a => { OP := 0x02, A := a }
  | .andU a b => { OP := 0x10, A := a, B := b }
  | .andnotU a b => { OP := 0x11, A := a, B := b }
  | .orU a b => { OP := 0x12, A := a, B := b }
  | .norU a b => { OP := 0x13, A := a, B := b }
  | .nandU a b => { OP := 0x14, A := a, B := b }
  | .xorU a b => { OP := 0x15, A := a, B := b }
  | .xnorU a b => { OP := 0x16, A := a, B := b }
  | .notU a => { OP := 0x17, A := a }
  | .cmpU a b => { OP := 0x20, A := a, B := b }
  | .eqU a b => { OP := 0x21, A := a, B := b }
  | .ltU a b => { OP := 0x22, A := a, B := b }
  | .lteU a b => { OP := 0x23, A := a, B := b }
  | .gtU a b => { OP := 0x24, A := a, B := b }
  | .gteU a b => { OP := 0x25, A := a, B := b }
  | .lshiftU a => { OP := 0x30, A := a }
  | .lshiftnU a n => { OP := 0x31, A := a, N := n }
  | .rshiftU a => { OP := 0x32, A := a }
  | .rshiftnU a n => { OP := 0x33, A := a, N := n }
  | .rshiftvU a b => { OP := 0x34, A := a, B := b }
  | .mulU a b => { OP := 0x40, A := a, B := b }
  | .divmodU a b => { OP := 0x41, A := a, B := b }
  | .divU a b => { OP := 0x42, A := a, B := b }
  | .modU a b => { OP := 0x43, A := a, B := b }
  | .bitlenU a => { OP := 0x50, A := a }
  | .bitlen64 n => { OP := 0x51, N := n }
  | .fromu64U n => { OP := 0x60, N := n }
  | .fromi64U n => { OP := 0x61, N := n }
  | .tou64U a => { OP := 0x62, A := a }
  | .toi64U a => { OP := 0x63, A := a }
  | .tosignedU a => { OP := 0x64, A := a }
  | .fitss64U a => { OP := 0x65, A := a }
  | .fitsu64U a => { OP := 0x66, A := a }
  | .addI a b => { OP := 0x80, A := a, B := b }
  | .subI a b => { OP := 0x81, A := a, B := b }
  | .negI a => { OP := 0x82, A := a }
  | .absI a => { OP := 0x83, A := a }
  | .andI a b => { OP := 0x90, A := a, B := b }
  | .andnotI a b => { OP := 0x91, A := a, B := b }
  | .orI a b => { OP := 0x92, A := a, B := b }
  | .norI a b => { OP := 0x93, A := a, B := b }
  | .nandI a b => { OP := 0x94, A := a, B := b }
  | .xorI a b => { OP := 0x95, A := a, B := b }
  | .xnorI a b => { OP := 0x96, A := a, B := b }
  | .notI a => { OP := 0x97, A := a }
  | .cmpI a b => { OP := 0xA0, A := a, B := b }
  | .eqI a b => { OP := 0xA1, A := a, B := b }
  | .ltI a b => { OP := 0xA2, A := a, B := b }
  | .lteI a b => { OP := 0xA3, A := a, B := b }
  | .gtI a b => { OP := 0xA4, A := a, B := b }
  | .gteI a b => { OP := 0xA5, A := a, B := b }
  | .abscmpI a b => { OP := 0xA8, A := a, B := b }
  | .abseqI a b => { OP := 0xA9, A := a, B := b }
  | .absltI a b => { OP := 0xAA, A := a, B := b }
  | .abslteI a b => { OP := 0xAB, A := a, B := b }
  | .absgtI a b => { OP := 0xAC, A := a, B := b }
  | .absgteI a b => { OP := 0xAD, A := a, B := b }
  | .lshiftI a => { OP := 0xB0, A := a }
  | .lshiftnI a n => { OP := 0xB1, A := a, N := n }
  | .rshiftI a => { OP := 0xB2, A := a }
  | .rshiftnI a n => { OP := 0xB3, A := a, N := n }
  | .rshiftvI a b => { OP := 0xB4, A := a, B := b }
  | .mulI a b => { OP := 0xC0, A := a, B := b }
  | .divmodI a b => { OP := 0xC1, A := a, B := b }
  | .divI a b => { OP := 0xC2, A := a, B := b }
  | .modI a b => { OP := 0xC3, A := a, B := b }
  | .fromu64I n => { OP := 0xE0, N := n }
  | .fromi64I n => { OP := 0xE1, N := n }
  | .tou64I a => { OP := 0xE2, A := a }
  | .toi64I a => { OP := 0xE3, A := a }
  | .tounsignedI a => { OP := 0xE4, A := a }
  | .fitss64I a => { OP := 0xE5, A := a }
  | .fitsu64I a => { OP := 0xE6, A := a }
  | .isnegI a => { OP := 0xE8, A := a }
  | .isposI a => { OP := 0xE9, A := a }
  | .signI a => { OP := 0xEA, A := a }

/-- The `REQ` word of an instruction (R60, R80). -/
def encode (i : Instr) : BitVec 328 := requestWord (encodeRequest i)

/-- The `REQ` word whose low `nbits` bits are `w` and whose other bits are zero. One request is one
328-bit word, numbered as R60 numbers it (log 16). -/
def tableWord (nbits w : Nat) : BitVec 328 := BitVec.ofNat 328 (w % 2 ^ nbits)

/-- The instruction the decoder reads from a word of the opcode table. -/
def decodeTableWord (nbits w : Nat) : Option Instr :=
  match decode (tableWord nbits w) with
  | .ok i => some i
  | .error _ => none

end Sys2Proof
end

