-- ==== Sys2Proof/Machine/Fetch.lean ====
section
/-! DEFINITION. How the core comes by its next operation: what it does with the host's inputs while
it is ready, and the request that is in progress while it is not (70_reset_and_hazards R330 to R336,
10_state R28). -/

namespace Sys2Proof.Machine

/-- The instruction of the request in progress (R335: the sampled fields, not the wires). -/
def State.sampled (s : State) : Except DecodeError Instr := decodeRequest s.req

/-- A ready core with nothing to take: the response transferred before is no longer valid. -/
def State.idle (s : State) : Host.Outcome State Fault Refusal := .next s.withdraw

/-- A ready core takes the request `w` (R333); a reserved code is refused (R69, U1). -/
def State.accept (s : State) (w : BitVec 328) : Host.Outcome State Fault Refusal :=
  match decode w with
  | .ok _ => .next (s.transfer (requestOfWord w))
  | .error (.reservedOpcode op) => .refused (.reservedOpcode op)

/-- What a ready core does with the next input of the host (R330, R333). -/
def State.takeInput (s : State) : Host.Outcome State Fault Refusal :=
  match s.inputs with
  | .request w :: rest => { s with inputs := rest }.accept w
  | .quiet :: rest => { s with inputs := rest }.idle
  | .reset :: rest => .next { s with inputs := rest }.applyReset
  | [] => s.idle

/-- `RST` asserted next by the host, and what it does after (R330). -/
def resetNext : List HostInput → Option (List HostInput)
  | .reset :: rest => some rest
  | _ => none

/-- The inputs with a quiet one before a pending `RST`, so that it does not abandon the transaction
that is being placed. -/
def holdReset (inputs : List HostInput) : List HostInput :=
  match resetNext inputs with
  | some _ => .quiet :: inputs
  | none => inputs

/-- `s` with the request `r` placed as the one in progress (R333). DESIGN CHOICE: of a transfer it does what
the next step needs and no more. It leaves `rspValid` and `rsp` as they are, where `State.transfer`
withdraws the last response (log 4), so a response that was valid in `s` still stands on the busy core
until the request is answered; from a state with no valid response, as after reset, none stands (log 25). -/
def State.place (s : State) (r : Request) : State :=
  { s with inputs := holdReset s.inputs, reqReady := false, req := r }

end Sys2Proof.Machine
end

