-- ==== Sys2Proof/Machine/Step.lean ====
section
/-! DEFINITION. One step of the core: `RST`, the transfer of a request, or the whole of the
transaction in progress up to its response (70_reset_and_hazards R330, R333, R334, R338). -/

namespace Sys2Proof.Machine

/-- The transaction in progress runs on its sampled fields (R335). -/
def State.complete (s : State) : Host.Outcome State Fault Refusal :=
  match s.sampled with
  | .ok i => exec i s
  | .error (.reservedOpcode op) => .refused (.reservedOpcode op)

/-- One step. `RST` abandons whatever is in progress (R330); a ready core takes the host's next input
(R333); a busy core answers its request and leaves the inputs alone (R334). -/
def step (s : State) : Host.Outcome State Fault Refusal :=
  match resetNext s.inputs with
  | some rest => .next { s with inputs := rest }.applyReset
  | none => if s.reqReady then s.takeInput else s.complete

/-- `s` with the request word `w` placed as the one in progress, so that the next step runs it (log 2, 16);
the response ports stay as they are (log 25). -/
def State.withFetchWord (s : State) (nbits w : Nat) : State :=
  s.place (requestOfWord (tableWord nbits w))

end Sys2Proof.Machine
end

