-- ==== Sys2Proof/Machine/Cores.lean ====
section
/-! DEFINITION. Several cores side by side (60_exceptions R317): independent copies that share
nothing. -/

namespace Sys2Proof.Machine

/-- Core `k` of several takes one step (R317, D32). DESIGN CHOICE: an index with no core changes nothing,
and the refusal of the core that steps is the refusal of the whole step (log 19). The free values are common
to all cores: two cores with equal `freeIx` draw equal ones, which the spec leaves open (log 8, 19). -/
def stepCore (k : Nat) (cores : List State) : Host.Outcome (List State) Fault Refusal :=
  match cores[k]? with
  | none => .next cores
  | some s =>
    match step s with
    | .next t => .next (cores.set k t)
    | .fault f => .fault f
    | .refused r => .refused r

end Sys2Proof.Machine
end

