-- ==== Sys2Proof/Machine/HostSeq.lean ====
section
/-! DEFINITION. The host's side: sequences of transactions in the notation of 30_encoding R80, the
pseudo-instructions of R81, and the rule that a sequence ends at the first `ERR = 1` (60_exceptions
R306, 93_implementation_defined U5). Temporaries are the host's, not registers of the core
(10_state R26); a line is held as its parsed form (log 18). -/

namespace Sys2Proof.Machine

/-- The constant names of R12 that a line may use (R80). -/
inductive WideName where
  | ZERO | ONE | ONES | SMIN | SMAX
deriving DecidableEq, Repr

/-- A 128-bit source (R80): a temporary `v<i>`, a literal `{hi:.., lo:..}`, or a constant name. -/
inductive WideSource where
  | temp (i : Nat)
  | literal (hi lo : Word)
  | named (c : WideName)
deriving DecidableEq, Repr

/-- A 64-bit source (R80): a temporary `s<i>`, a literal `#0x..`, or a literal `#<decimal>`. -/
inductive WordSource where
  | temp (i : Nat)
  | hex (w : Word)
  | decimal (d : Int)
deriving DecidableEq, Repr

inductive Source where
  | wide (a : WideSource)
  | word (a : WordSource)
deriving DecidableEq, Repr

/-- A destination: a temporary of the field's width (R80). -/
inductive Destination where
  | wide (i : Nat)
  | word (i : Nat)
deriving DecidableEq, Repr

/-- One line: a transaction, its mnemonic given by its code (R62 is one to one), or a
pseudo-instruction (R81). -/
inductive Line where
  | transaction (op : BitVec 8) (dests : List Destination) (sources : List Source)
  | mk (dest : Nat) (hi lo : WordSource)
  | hi (dest : Nat) (v : WideSource)
  | lo (dest : Nat) (v : WideSource)
deriving DecidableEq, Repr

/-- The temporaries defined so far, the latest definition first (R80). -/
structure Env where
  wides : List (Nat × Wide) := []
  words : List (Nat × Word) := []
deriving DecidableEq, Repr

/-- How a sequence ends (R306, U5). An aborted one returns no temporaries. -/
inductive SeqOutcome where
  | finished (env : Env) (s : State)
  | aborted (line : Nat) (s : State)
  | refused (line : Nat) (r : Refusal)
  | illFormed (line : Nat)
deriving DecidableEq, Repr

def WideName.value : WideName → Wide
  | .ZERO => Sys2Proof.ZERO
  | .ONE => Sys2Proof.ONE
  | .ONES => Sys2Proof.ONES
  | .SMIN => Sys2Proof.SMIN
  | .SMAX => Sys2Proof.SMAX

/-- A source's value; a temporary must be defined before it is used (R80). -/
def WideSource.value (env : Env) : WideSource → Option Wide
  | .temp i => env.wides.lookup i
  | .literal h l => some (pair h l)
  | .named c => some c.value

/-- A negative decimal stands for its 64-bit two's-complement pattern (R80). -/
def WordSource.value (env : Env) : WordSource → Option Word
  | .temp i => env.words.lookup i
  | .hex w => some w
  | .decimal d => some (BitVec.ofInt 64 d)

/-- The next source as a 128-bit field, if the operation reads the field; zero if it does not (R80). -/
def takeWide (env : Env) (reads : Bool) (sources : List Source) : Option (Wide × List Source) :=
  match reads, sources with
  | false, rest => some (0, rest)
  | true, .wide a :: rest => (a.value env).map fun v => (v, rest)
  | true, _ => none

/-- The next source as the 64-bit field, likewise. -/
def takeWord (env : Env) (reads : Bool) (sources : List Source) : Option (Word × List Source) :=
  match reads, sources with
  | false, rest => some (0, rest)
  | true, .word a :: rest => (a.value env).map fun v => (v, rest)
  | true, _ => none

/-- The request of a line (R80): the sources fill `A`, `B`, `N` in this order, as far as the operation
reads them. -/
def lineRequest (env : Env) (op : BitVec 8) (sources : List Source) : Option Request :=
  match takeWide env (opReadsA op) sources with
  | none => none
  | some (a, rest) =>
    match takeWide env (opReadsB op) rest with
    | none => none
    | some (b, rest) =>
      match takeWord env (opReadsN op) rest with
      | some (n, []) => some { OP := op, A := a, B := b, N := n }
      | _ => none

/-- The response fields an operation drives, in the order `Z`, `R`, `S` (R80, R62). -/
def responseFields (op : BitVec 8) (r : Response) : List (Wide ⊕ Word) :=
  (if opWritesZ op then [.inl r.Z] else []) ++ (if opWritesR op then [.inl r.R] else []) ++
    (if opWritesS op then [.inr r.S] else [])

/-- Defines the destinations with the response fields, width by width, in the order `Z`, `R`, `S` (R80).
DESIGN CHOICE: a temporary that one line names twice (`DIVMOD.U v0, v0`) is defined twice and keeps the
later field, `R`; R80 does not say which field it holds (log 21). -/
def Env.define (env : Env) : List Destination → List (Wide ⊕ Word) → Option Env
  | [], [] => some env
  | .wide i :: ds, .inl v :: vs => { env with wides := (i, v) :: env.wides }.define ds vs
  | .word i :: ds, .inr w :: vs => { env with words := (i, w) :: env.words }.define ds vs
  | _, _ => none

/-- One transaction as the host issues it: the request's transfer and its response (R333). DESIGN CHOICE:
it is two steps, which is right of a ready core; the spec does not say in which state a sequence begins,
and the model presumes a ready one (log 23). -/
def State.transact (s : State) (r : Request) : Host.Outcome State Fault Refusal :=
  match step { s with inputs := [.request (requestWord r)] } with
  | .next t => step t
  | .fault f => .fault f
  | .refused r => .refused r

/-- What a transaction line does after its response (R306): the end of the sequence, or the new
temporaries. DESIGN CHOICE: `ERR` is looked at first, so a division line whose destinations do not fit its
fields is aborted when it answers `ERR = 1` and ill-formed when it does not; the spec gives such a line
no meaning (log 22). It does not test `rspValid`: from a ready core the response is valid here (R333),
from a busy one it may not be, and the outcome then says nothing (log 23). -/
def afterResponse (line : Nat) (op : BitVec 8) (dests : List Destination) (env : Env) (t : State) :
    SeqOutcome :=
  if t.rsp.ERR = 1 then .aborted line t
  else
    match env.define dests (responseFields op t.rsp) with
    | some env' => .finished env' t
    | none => .illFormed line

/-- One line, as a sequence of its own. -/
def runLine (line : Nat) (env : Env) (s : State) : Line → SeqOutcome
  | .transaction op dests sources =>
    match lineRequest env op sources with
    | none => .illFormed line
    | some r =>
      match s.transact r with
      | .next t => afterResponse line op dests env t
      | .refused r => .refused line r
  | .mk d h l =>
    match h.value env, l.value env with
    | some h, some l => .finished { env with wides := (d, pair h l) :: env.wides } s
    | _, _ => .illFormed line
  | .hi d v =>
    match v.value env with
    | some v => .finished { env with words := (d, hiWord v) :: env.words } s
    | none => .illFormed line
  | .lo d v =>
    match v.value env with
    | some v => .finished { env with words := (d, loWord v) :: env.words } s
    | none => .illFormed line

/-- A sequence: a fold over the lines that stops at the first `ERR` (R306). DESIGN CHOICE: `line` is the
number of the first line and every line counts, `MK`, `HI` and `LO` too; no rule says whether these, which
are no transactions (R81), count in the `k` of "aborted at line k" (log 24). It starts on a ready core
(log 23). -/
def runLines (line : Nat) (env : Env) (s : State) : List Line → SeqOutcome
  | [] => .finished env s
  | l :: ls =>
    match runLine line env s l with
    | .finished env' s' => runLines (line + 1) env' s' ls
    | stop => stop

end Sys2Proof.Machine
end

