-- ==== Sys2Proof/Safety.lean ====
section
/-! DEFINITION. The terms in which claims are stated: that an instruction answers with a given
response and leaves the rest of the machine alone, and what holds of every machine the core can be
left in. -/

namespace Sys2Proof.Machine

/-- `exec i s` completes with the response `r` (R333, R334): the response is valid, the core is ready
again, the sampled operands are unchanged (R22; that they stay after the response is log 7) and the
host's pending inputs are untouched (log 2), all in one step (log 1). The working registers are not named:
after a response they hold any value (U3). -/
def Answers (i : Instr) (s : State) (r : Response) : Prop :=
  ∃ t, exec i s = .next t ∧ t.rspValid = true ∧ t.rsp = r ∧ t.reqReady = true ∧ t.req = s.req ∧
    t.inputs = s.inputs

/-- The request `OP, A, B, N` is the instruction `i` (R60, R62), whatever unread fields hold (R65), and
`i` answers with `r`. -/
def Performs (op : BitVec 8) (a b : Wide) (n : Word) (i : Instr) (s : State) (r : Response) : Prop :=
  decodeRequest { OP := op, A := a, B := b, N := n } = .ok i ∧ Answers i s r

/-- What the response `r` to the request `q` must look like: `ERR = 1` exactly for a division by zero
(R301), then all data zero (R303), and every field the operation does not drive zero (R66). -/
def ResponseFits (q : Request) (r : Response) : Prop :=
  (r.ERR = 1 ↔ opMayErr q.OP = true ∧ q.B = ZERO) ∧
  (r.ERR = 1 → r.Z = 0 ∧ r.R = 0 ∧ r.S = 0) ∧
  (opWritesZ q.OP = false → r.Z = 0) ∧ (opWritesR q.OP = false → r.R = 0) ∧
  (opWritesS q.OP = false → r.S = 0)

/-- The handshake's invariant: a request in progress is legal and has no response yet (R69, R333,
R334), and a valid response fits the request it answers (R47). -/
def Inv (s : State) : Prop :=
  (s.reqReady = false → s.req.legal = true ∧ s.rspValid = false) ∧
  (s.rspValid = true → ResponseFits s.req s.rsp)

/-- The host issues the request `q` to the core in state `s` and gets the response `r` (R333, R336):
the second of two steps leaves `r` valid (log 1). It is meant of a ready core (log 23). -/
def Responds (s : State) (q : Request) (r : Response) : Prop :=
  ∃ t, s.transact q = .next t ∧ t.rspValid = true ∧ t.rsp = r

/-- The state after `k` steps, when none of them stops. -/
def steps : Nat → State → Host.Outcome State Fault Refusal
  | 0, s => .next s
  | k + 1, s =>
    match step s with
    | .next t => steps k t
    | stop => stop

/-- The divider's registers with `c` iterations left, for the dividend `x`, the divisor `d` and the
difference `n` of their bit lengths (R205, whose `k` is `c - 1`). -/
def DivInv (x d : Wide) (n c : Nat) (r : DivRegs) : Prop :=
  r.CNT.toNat = c ∧ (c ≠ 0 → r.DV.toNat = d.toNat * 2 ^ (c - 1)) ∧
  x.toNat = r.Q.toNat * d.toNat * 2 ^ c + r.REM.toNat ∧
  r.REM.toNat < d.toNat * 2 ^ c ∧ r.Q.toNat < 2 ^ (n + 1 - c)

end Sys2Proof.Machine
end

