-- ==== Sys2Proof/Certificates/Slice0/Obligations.lean ====
section
/-! DEFINITION. The statements for the provers. In a response literal a field that is not named is
zero, and `Performs` and `Answers` (Safety.lean) say that an instruction completes and what it leaves
unchanged. The model's choices in these terms go with every statement that uses them: that a transaction
is one step, that the host's inputs are a list that a response leaves alone and that the sampled request
stays after it (`Answers`, `Performs`: log 1, 2, 7), and that a request is two steps of a ready core
(`Responds`, `transact`: log 1, 2, 23). Every `D<n>` below is a decision of the spec (92_eei_decisions)
that the statement rests on; `log <n>` is an entry of notes/assumptions. -/

open Sys2Proof Sys2Proof.Machine

/-! ### The step, the handshake, reset -/

/-- Around `exec` the step adds nothing: with a request in progress (R334) and no `RST` pending (R330),
it is `exec` of the instruction that the sampled fields decode to (R335); `withFetchWord` puts a word
in exactly that place (log 2, 25). -/
def Obligations.StepRunsDecodedInstruction : Prop :=
  (∀ (s : State) (i : Instr), s.reqReady = false → resetNext s.inputs = none →
    decodeRequest s.req = .ok i → step s = exec i s) ∧
  (∀ (s : State) (nbits w : Nat) (i : Instr), decodeTableWord nbits w = some i →
    step (s.withFetchWord nbits w) = exec i (s.withFetchWord nbits w))

/-- A ready core that is offered a legal `REQ` word takes it (R333). Its four fields are sampled (R335) and
the core is busy (R334); when no `RST` follows, the next step runs the instruction of the sampled word and
leaves a response. The model's choices in it: the host's further inputs are a list, and the rest of it
still waits (log 2); no response is valid from the transfer on (log 4); the transfer leaves the working
registers, which may then hold any value, as they were (log 6). -/
def Obligations.TransferSamplesTheRequest : Prop :=
  ∀ (s : State) (w : BitVec 328) (rest : List HostInput) (i : Instr),
    s.reqReady = true → s.inputs = .request w :: rest → decode w = .ok i →
    ∃ t, step s = .next t ∧ t.req = requestOfWord w ∧ t.reqReady = false ∧ t.rspValid = false ∧
      t.inputs = rest ∧ t.work = s.work ∧
      (resetNext rest = none → ∃ r, Answers i t r ∧ step t = exec i t)

/-- Until it has answered, a core with a legal request in progress takes nothing from the host, whatever
waits there but for `RST`, and the step that answers it makes it ready again (R334). The model's choices
in it: one step answers (log 1), what waits is a list that stays untouched (log 2), and the sampled
request, which no rule writes during the transaction (R22), is still there after it (log 7). -/
def Obligations.BusyCoreTakesNoRequest : Prop :=
  ∀ s : State, s.reqReady = false → s.req.legal = true → resetNext s.inputs = none →
    ∃ t, step s = .next t ∧ t.inputs = s.inputs ∧ t.req = s.req ∧ t.rspValid = true ∧
      t.reqReady = true

/-- Each transferred request gets exactly one response (R333, R340). A ready core that is offered a legal
request and, after it, `k` quiet moments takes it in one step, with no valid response; the next step
leaves the one response, and the core ready; and after any number of steps from there, in the `k` quiet
moments and when the host presents nothing more, no response is valid. The model's choices in it: one step
for the transfer and one for the transaction (log 1), the list of inputs (log 2), that the response is
withdrawn by the step after it (log 4), and that the request stays sampled after it (log 7). -/
def Obligations.OneResponsePerRequest : Prop :=
  ∀ (s : State) (q : Request) (k : Nat), s.reqReady = true → q.legal = true →
    ∃ m t, step { s with inputs := .request (requestWord q) :: List.replicate k .quiet } = .next m ∧
      m.rspValid = false ∧ m.reqReady = false ∧ m.req = q ∧
      step m = .next t ∧ t.rspValid = true ∧ t.reqReady = true ∧ t.req = q ∧
      t.inputs = List.replicate k .quiet ∧ (k = 0 → s.transact q = .next t) ∧
      ∀ n, ∃ u, steps (n + 1) t = .next u ∧ u.rspValid = false ∧ u.reqReady = true ∧ u.req = q

/-- When `RST` is released no response is valid and the core is ready (R331); `RST` during a transaction
abandons it, and the request issued again gets the response it has on any other ready core (R330, R21).
The model's choices in it: `RST` is one event that asserts and releases in one step and wins over
everything (log 3), the host's further inputs are the rest of a list (log 2), and the request is issued
again in two steps (log 1, 23). The values of the other fields at reset are the model's (log 5, 6, 7); the statement names none. -/
def Obligations.ResetAbandonsAndReadies : Prop :=
  (State.reset.rspValid = false ∧ State.reset.reqReady = true) ∧
  ∀ (s : State) (rest : List HostInput), s.inputs = .reset :: rest →
    ∃ t, step s = .next t ∧ t.rspValid = false ∧ t.reqReady = true ∧ t.inputs = rest ∧
      ∀ (u : State) (r : Response), u.reqReady = true → (Responds u s.req r ↔ Responds t s.req r)

/-- The handshake's invariant holds at reset. -/
def Obligations.ResetMeetsInv : Prop := Inv State.reset

/-- The handshake's invariant is kept by every step from every state that has it: a request in
progress is legal and unanswered, and a valid response fits its request (R47, R66, R69, R301, R303,
R334). The model's choices in it: no response is valid from the transfer on, the last one being withdrawn
there (log 4), and the request that a valid response is held against is still the sampled one (log 7). -/
def Obligations.EveryStepKeepsInv : Prop :=
  ∀ s t : State, Inv s → step s = .next t → Inv t

/-- No step changes the sampled operands, but for the transfer of a new request (R22, R335). That they stay
after the response and through `RST` is the model's choice (log 7). -/
def Obligations.OperandsChangeOnlyByTransfer : Prop :=
  ∀ s t : State, step s = .next t → t.req = s.req ∨
    ∃ w rest, s.reqReady = true ∧ s.inputs = .request w :: rest ∧ t.req = requestOfWord w ∧
      t.req.legal = true

/-! ### Formats, decoding, encoding -/

/-- A sanity statement: words written out from R60 and R62 (R80's three examples among them) decode to
the instruction they stand for, one or two of each group. -/
def Obligations.WrittenWordsDecode : Prop :=
  decode (0x00#8 ++ 5#128 ++ 7#128 ++ 0#64) = .ok (.addU 5 7) ∧
  decode (0x11#8 ++ 5#128 ++ 7#128 ++ 0#64) = .ok (.andnotU 5 7) ∧
  decode (0xAC#8 ++ 5#128 ++ 7#128 ++ 0#64) = .ok (.absgtI 5 7) ∧
  decode (0xB1#8 ++ 5#128 ++ 0#128 ++ 70#64) = .ok (.lshiftnI 5 70) ∧
  decode (0x40#8 ++ 5#128 ++ 7#128 ++ 0#64) = .ok (.mulU 5 7) ∧
  decode (0xC3#8 ++ 5#128 ++ 7#128 ++ 0#64) = .ok (.modI 5 7) ∧
  decode (0x51#8 ++ 0#128 ++ 0#128 ++ 0x100#64) = .ok (.bitlen64 0x100) ∧
  decode (0xE1#8 ++ 0#128 ++ 0#128 ++ 9#64) = .ok (.fromi64I 9) ∧
  decode (0xEA#8 ++ 5#128 ++ 0#128 ++ 0#64) = .ok (.signI 5)

/-- R60: where each field of the 328-bit `REQ` word lies, bit by bit, and that the word is nothing but
its fields. -/
def Obligations.RequestFieldPositions : Prop :=
  (∀ (w : BitVec 328) (i : Nat),
    (requestOfWord w).OP.getLsbD i = (decide (i < 8) && w.getLsbD (320 + i)) ∧
    (hiWord (requestOfWord w).A).getLsbD i = (decide (i < 64) && w.getLsbD (256 + i)) ∧
    (loWord (requestOfWord w).A).getLsbD i = (decide (i < 64) && w.getLsbD (192 + i)) ∧
    (hiWord (requestOfWord w).B).getLsbD i = (decide (i < 64) && w.getLsbD (128 + i)) ∧
    (loWord (requestOfWord w).B).getLsbD i = (decide (i < 64) && w.getLsbD (64 + i)) ∧
    (requestOfWord w).N.getLsbD i = (decide (i < 64) && w.getLsbD i)) ∧
  (∀ q : Request, requestOfWord (requestWord q) = q) ∧
  ∀ w : BitVec 328, requestWord (requestOfWord w) = w

/-- R63: where each field of the 321-bit `RSP` word lies, bit by bit, and that the word is nothing but
its fields. -/
def Obligations.ResponseFieldPositions : Prop :=
  (∀ (w : BitVec 321) (i : Nat),
    (responseOfWord w).ERR.getLsbD i = (decide (i < 1) && w.getLsbD (320 + i)) ∧
    (hiWord (responseOfWord w).Z).getLsbD i = (decide (i < 64) && w.getLsbD (256 + i)) ∧
    (loWord (responseOfWord w).Z).getLsbD i = (decide (i < 64) && w.getLsbD (192 + i)) ∧
    (responseOfWord w).R.getLsbD i = (decide (i < 128) && w.getLsbD (64 + i)) ∧
    (responseOfWord w).S.getLsbD i = (decide (i < 64) && w.getLsbD i)) ∧
  (∀ r : Response, responseOfWord (responseWord r) = r) ∧
  ∀ w : BitVec 321, responseWord (responseOfWord w) = w

/-- Decoding and encoding agree, for all 78 instructions with every operand: the decoder gives back
the instruction whose `REQ` word R62 and R80 write, and two instructions never share a word. -/
def Obligations.DecodeInvertsEncode : Prop :=
  (∀ i : Instr, decode (encode i) = .ok i) ∧ ∀ i j : Instr, encode i = encode j → i = j

/-- The other direction: a word that decodes, and whose unread fields are zero as the assembler leaves
them (R80), is the encoding of what it decodes to. -/
def Obligations.EncodeInvertsDecode : Prop :=
  ∀ (w : BitVec 328) (i : Instr), decode w = .ok i → (requestOfWord w).unreadZero = true →
    encode i = w

/-- 178 of the 256 codes are reserved, all of group 7 among them; a request with a reserved code decodes to
nothing and is refused at its transfer (R69). A sequence that comes to a line with one is refused there,
or is ill-formed there when the line names a source, which no reserved code reads: the model's choice
(log 18), as is that the sequence starts on a ready core (log 23). That the refusal comes at the transfer,
from the head of the host's list, is log 9 and log 2. -/
def Obligations.ReservedCodesAreRefused : Prop :=
  ((List.range 256).filter fun k => !opLegal (BitVec.ofNat 8 k)).length = 178 ∧
  (∀ op : BitVec 8, opGroup op = 7 → opLegal op = false) ∧
  (∀ q : Request, opLegal q.OP = false → decodeRequest q = .error (.reservedOpcode q.OP)) ∧
  (∀ (s : State) (w : BitVec 328) (rest : List HostInput), s.reqReady = true →
    s.inputs = .request w :: rest → opLegal (requestOfWord w).OP = false →
    step s = .refused (.reservedOpcode (requestOfWord w).OP)) ∧
  ∀ (k : Nat) (env : Env) (s : State) (op : BitVec 8) (dests : List Destination)
    (sources : List Source) (rest : List Line), s.reqReady = true → opLegal op = false →
    runLines k env s (.transaction op dests sources :: rest) = .refused k (.reservedOpcode op) ∨
    runLines k env s (.transaction op dests sources :: rest) = .illFormed k

/-- The check of WellFormed.lean, written by group and function, agrees with the decoder's table: a
code is legal exactly when it decodes, and of the two engines' codes for one function the unsigned
one alone, or the signed one alone, is missing where R64 says so. -/
def Obligations.LegalExactlyWhenDecodes : Prop :=
  (∀ q : Request, (∃ i, decodeRequest q = .ok i) ↔ q.legal = true) ∧
  ∀ op : BitVec 8, op.getLsbD 7 = false →
    (opLegal op = true ∧ opLegal (op ||| 0x80) = false ↔ op = 0x50 ∨ op = 0x51) ∧
    (opLegal op = false ∧ opLegal (op ||| 0x80) = true ↔ op = 0x03 ∨ (0x28 ≤ op ∧ op ≤ 0x2D) ∨
      (0x68 ≤ op ∧ op ≤ 0x6A))

/-- R65: a request field that the operation does not read may hold any bits; the response is the
same. -/
def Obligations.UnreadFieldsAreIgnored : Prop :=
  ∀ (s : State) (q q' : Request) (r : Response), s.reqReady = true → q.OP = q'.OP →
    (opReadsA q.OP = true → q.A = q'.A) → (opReadsB q.OP = true → q.B = q'.B) →
    (opReadsN q.OP = true → q.N = q'.N) → Responds s q r → Responds s q' r

/-! ### No state between transactions -/

/-- R21: the response is a function of the request alone. Two ready cores that differ in anything else
(registers, earlier requests and responses, pending inputs) give the same response, and no other. -/
def Obligations.ResponseDependsOnRequestOnly : Prop :=
  ∀ (s s' : State) (q : Request) (r r' : Response), s.reqReady = true → s'.reqReady = true →
    Responds s q r → Responds s' q r ∧ (Responds s' q r' → r = r')

/-- Any two transactions commute (R47): in either order, each gets the same response. -/
def Obligations.TransactionsCommute : Prop :=
  ∀ (s t : State) (q q' : Request) (r r' : Response), s.reqReady = true →
    s.transact q = .next t → t.rspValid = true → t.rsp = r → Responds t q' r' →
    ∃ u, s.transact q' = .next u ∧ u.rspValid = true ∧ u.rsp = r' ∧ Responds u q r

/-- Cores side by side are independent copies that share nothing (R317, D32): a step of core `j` is the step
of its own state, put in its place, and leaves every other core as it was; and two cores' steps give the
same machines in either order. That the cores are a list and step one at a time, that an index with no
core changes nothing, and that a refusal of the core that steps is the whole step's, is the model's
choice (log 19), as is that the machines of both orders agree in their unspecified wires and working
registers too (log 8). -/
def Obligations.CoresShareNothing : Prop :=
  (∀ (cores : List State) (j : Nat) (s t : State), cores[j]? = some s → step s = .next t →
    stepCore j cores = .next (cores.set j t) ∧ (cores.set j t)[j]? = some t) ∧
  ∀ (cores one : List State) (j k : Nat), j ≠ k → stepCore j cores = .next one →
    one.length = cores.length ∧ (∀ m, m ≠ j → one[m]? = cores[m]?) ∧
    ∀ both, stepCore k one = .next both →
      ∃ other, stepCore k cores = .next other ∧ stepCore j other = .next both

/-! ### The one exception -/

/-- R340: every instruction completes, from every state and on every operand: it answers, and never
faults or is refused. -/
def Obligations.EveryInstructionCompletes : Prop :=
  ∀ (i : Instr) (s : State), ∃ r, Answers i s r

/-- R301: `ERR = 1` exactly for the six divisions with a zero divisor. -/
def Obligations.ErrExactlyOnZeroDivisor : Prop :=
  ∀ (s : State) (q : Request) (r : Response), s.reqReady = true → Responds s q r →
    (r.ERR = 1 ↔
      (q.OP = 0x41 ∨ q.OP = 0x42 ∨ q.OP = 0x43 ∨ q.OP = 0xC1 ∨ q.OP = 0xC2 ∨ q.OP = 0xC3) ∧
        q.B = ZERO)

/-- R303: each of the six divisions, with a zero divisor, answers with `ERR = 1` and all data zero, for
every dividend: one fixed `RSP` word, `ERR` followed by 320 zero bits. -/
def Obligations.ZeroDivisorFaultResponse : Prop :=
  (∀ (s : State) (x : Wide) (n : Word),
    Performs 0x41 x ZERO n (.divmodU x ZERO) s { ERR := 1 } ∧
    Performs 0x42 x ZERO n (.divU x ZERO) s { ERR := 1 } ∧
    Performs 0x43 x ZERO n (.modU x ZERO) s { ERR := 1 } ∧
    Performs 0xC1 x ZERO n (.divmodI x ZERO) s { ERR := 1 } ∧
    Performs 0xC2 x ZERO n (.divI x ZERO) s { ERR := 1 } ∧
    Performs 0xC3 x ZERO n (.modI x ZERO) s { ERR := 1 }) ∧
  responseWord { ERR := 1 } = 1#1 ++ 0#320

/-- R305: the bit is not sticky and the core does not stop. After a transaction that answers `ERR = 1`
the next request gets the response it would have had before. -/
def Obligations.ErrIsNotSticky : Prop :=
  ∀ (s t : State) (q q' : Request) (r : Response), s.reqReady = true → s.transact q = .next t →
    t.rspValid = true → t.rsp.ERR = 1 → (Responds t q' r ↔ Responds s q' r) ∧ t.reqReady = true

/-- R66: a response field that the operation does not drive is zero; with `ERR = 1` all three are. -/
def Obligations.UndrivenFieldsAreZero : Prop :=
  ∀ (s : State) (q : Request) (r : Response), s.reqReady = true → Responds s q r →
    (opWritesZ q.OP = false → r.Z = 0) ∧ (opWritesR q.OP = false → r.R = 0) ∧
    (opWritesS q.OP = false → r.S = 0) ∧ (opMayErr q.OP = false → r.ERR = 0) ∧
    (r.ERR = 1 → r.Z = 0 ∧ r.R = 0 ∧ r.S = 0)

/-- A sequence ends at the first transaction that answers `ERR = 1` (R306). If the lines before it finish, a
division by zero aborts the whole at that line, whatever lines stand after it; the outcome holds no
temporaries. That the sequence begins on a ready core is the model's choice (log 23), and so is that
the line's number counts the pseudo-instructions before it (log 24), and that a line whose destinations
do not fit its fields ends so as well (log 22). -/
def Obligations.SequenceStopsAtFirstErr : Prop :=
  ∀ (k : Nat) (env env' : Env) (s s' : State) (before after : List Line) (op : BitVec 8)
    (dests : List Destination) (sources : List Source) (q : Request), s.reqReady = true →
    runLines k env s before = .finished env' s' → lineRequest env' op sources = some q →
    opMayErr op = true → q.B = ZERO →
    ∃ t, runLines k env s (before ++ .transaction op dests sources :: after) =
      .aborted (k + before.length) t ∧ t.rsp.ERR = 1

/-- R81: `MK`, `HI`, `LO` build and read the two words of a value and issue no transaction: the core's
state is the same. A source may be any that has a value (R80). -/
def Obligations.PseudoInstructionsIssueNothing : Prop :=
  ∀ (k d : Nat) (env : Env) (s : State) (h l : WordSource) (v : WideSource) (wh wl : Word) (x : Wide),
    h.value env = some wh → l.value env = some wl → v.value env = some x →
    runLine k env s (.mk d h l) = .finished { env with wides := (d, pair wh wl) :: env.wides } s ∧
    hiWord (pair wh wl) = wh ∧ loWord (pair wh wl) = wl ∧
    runLine k env s (.hi d v) = .finished { env with words := (d, hiWord x) :: env.words } s ∧
    runLine k env s (.lo d v) = .finished { env with words := (d, loWord x) :: env.words } s ∧
    pair (hiWord x) (loWord x) = x

/-! ### Adder, subtractor, negation, absolute value -/

/-- R103, R104, R105: the unsigned sum, difference and negation, modulo 2^128, with no error. -/
def Obligations.UnsignedAddSubNeg : Prop :=
  ∀ (s : State) (x y : Wide) (n : Word), ∃ zAdd zSub zNeg : Wide,
    Performs 0x00 x y n (.addU x y) s { Z := zAdd } ∧
    Performs 0x01 x y n (.subU x y) s { Z := zSub } ∧
    Performs 0x02 x y n (.negU x) s { Z := zNeg } ∧
    zAdd.toNat = (x.toNat + y.toNat) % 2 ^ 128 ∧
    (zSub.toNat : Int) = ((x.toNat : Int) - y.toNat) % 2 ^ 128 ∧
    (zNeg.toNat : Int) = (-(x.toNat : Int)) % 2 ^ 128

/-- The signed sum, difference and negation: the same bits as the unsigned ones (R110 e), which as
signed numbers are the exact results brought into [-2^127, 2^127-1] modulo 2^128 (the readings that
R106 and R107 mark `derived`). -/
def Obligations.SignedAddSubNeg : Prop :=
  ∀ (s : State) (x y : Wide) (n : Word), ∃ zAdd zSub zNeg : Wide,
    Performs 0x80 x y n (.addI x y) s { Z := zAdd } ∧ Answers (.addU x y) s { Z := zAdd } ∧
    Performs 0x81 x y n (.subI x y) s { Z := zSub } ∧ Answers (.subU x y) s { Z := zSub } ∧
    Performs 0x82 x y n (.negI x) s { Z := zNeg } ∧ Answers (.negU x) s { Z := zNeg } ∧
    zAdd.toInt = (x.toInt + y.toInt).bmod (2 ^ 128) ∧
    zSub.toInt = (x.toInt - y.toInt).bmod (2 ^ 128) ∧
    zNeg.toInt = (-x.toInt).bmod (2 ^ 128)

/-- `ABS.I` (R109, the spec's decision D22, log 13): a non-negative operand is returned, a negative one is
negated; read unsigned the result is the magnitude, and `SMIN` is returned unchanged. -/
def Obligations.SignedAbsoluteValue : Prop :=
  ∀ (s : State) (x y : Wide) (n : Word), ∃ z : Wide,
    Performs 0x83 x y n (.absI x) s { Z := z } ∧
    (x.getLsbD 127 = false → z = x) ∧ (x.getLsbD 127 = true → z.toNat + x.toNat = 2 ^ 128) ∧
    z.toNat = x.toInt.natAbs ∧ (x = SMIN → z = SMIN)

/-- The laws of R110 on the word-level definitions of adder, subtractor and negation: (a), (b), and the
ones it marks `derived`, (c) and (d). Then R102: negation is the complement plus one (also `derived`),
its fixed points are `ZERO` and `SMIN` alone, and everywhere else it negates the signed value. -/
def Obligations.AdderAndNegationLaws : Prop :=
  ∀ x y z : Wide, add128 x y = add128 y x ∧ add128 x (neg128 x) = ZERO ∧
    sub128 x y = add128 x (neg128 y) ∧ add128 (add128 x y) z = add128 x (add128 y z) ∧
    add128 x ZERO = x ∧ neg128 x = add128 (not128 x) ONE ∧
    (neg128 x = x ↔ x = ZERO ∨ x = SMIN) ∧ (x ≠ SMIN → (neg128 x).toInt = -x.toInt)

/-! ### Bitwise -/

/-- R112, R114, R117, R119 and the same bits for the signed engine, R120, R122, R125, R127: `AND`, `OR`,
`XOR`, `NOT`, bit by bit. -/
def Obligations.BasicBitwise : Prop :=
  ∀ (s : State) (x y : Wide) (n : Word), ∃ zAnd zOr zXor zNot : Wide,
    Performs 0x10 x y n (.andU x y) s { Z := zAnd } ∧ Performs 0x90 x y n (.andI x y) s { Z := zAnd } ∧
    Performs 0x12 x y n (.orU x y) s { Z := zOr } ∧ Performs 0x92 x y n (.orI x y) s { Z := zOr } ∧
    Performs 0x15 x y n (.xorU x y) s { Z := zXor } ∧ Performs 0x95 x y n (.xorI x y) s { Z := zXor } ∧
    Performs 0x17 x y n (.notU x) s { Z := zNot } ∧ Performs 0x97 x y n (.notI x) s { Z := zNot } ∧
    ∀ i, i < 128 →
      zAnd.getLsbD i = (x.getLsbD i && y.getLsbD i) ∧ zOr.getLsbD i = (x.getLsbD i || y.getLsbD i) ∧
      zXor.getLsbD i = (x.getLsbD i != y.getLsbD i) ∧ zNot.getLsbD i = !x.getLsbD i

/-- `ANDNOT`, `NOR`, `NAND`, `XNOR` of both engines, bit by bit, in the meaning the spec takes `from
general knowledge` (R113, R115, R116, R118, R121, R123, R124, R126; D20, log 13). -/
def Obligations.ComplementedBitwise : Prop :=
  ∀ (s : State) (x y : Wide) (n : Word), ∃ zAndnot zNor zNand zXnor : Wide,
    Performs 0x11 x y n (.andnotU x y) s { Z := zAndnot } ∧
    Performs 0x91 x y n (.andnotI x y) s { Z := zAndnot } ∧
    Performs 0x13 x y n (.norU x y) s { Z := zNor } ∧ Performs 0x93 x y n (.norI x y) s { Z := zNor } ∧
    Performs 0x14 x y n (.nandU x y) s { Z := zNand } ∧
    Performs 0x94 x y n (.nandI x y) s { Z := zNand } ∧
    Performs 0x16 x y n (.xnorU x y) s { Z := zXnor } ∧
    Performs 0x96 x y n (.xnorI x y) s { Z := zXnor } ∧
    ∀ i, i < 128 →
      zAndnot.getLsbD i = (x.getLsbD i && !y.getLsbD i) ∧
      zNor.getLsbD i = !(x.getLsbD i || y.getLsbD i) ∧
      zNand.getLsbD i = !(x.getLsbD i && y.getLsbD i) ∧ zXnor.getLsbD i = (x.getLsbD i == y.getLsbD i)

/-- The laws of R128 on the word-level definitions: commutativity and De Morgan from the source, the
rest with D20's readings (log 13). -/
def Obligations.BitwiseLaws : Prop :=
  ∀ x y : Wide, and128 x y = and128 y x ∧ or128 x y = or128 y x ∧ xor128 x y = xor128 y x ∧
    not128 (or128 x y) = and128 (not128 x) (not128 y) ∧
    not128 (and128 x y) = or128 (not128 x) (not128 y) ∧
    nor128 x y = not128 (or128 x y) ∧ nand128 x y = not128 (and128 x y) ∧
    xnor128 x y = not128 (xor128 x y) ∧ andnot128 x y = and128 x (not128 y)

/-! ### Compare -/

/-- R134 to R138: the five unsigned compares answer 1 for true and 0 for false, in the order of the
unsigned values. -/
def Obligations.UnsignedBooleanCompares : Prop :=
  ∀ (s : State) (x y : Wide) (n : Word),
    Performs 0x21 x y n (.eqU x y) s { S := if x.toNat = y.toNat then 1 else 0 } ∧
    Performs 0x22 x y n (.ltU x y) s { S := if x.toNat < y.toNat then 1 else 0 } ∧
    Performs 0x23 x y n (.lteU x y) s { S := if x.toNat ≤ y.toNat then 1 else 0 } ∧
    Performs 0x24 x y n (.gtU x y) s { S := if x.toNat > y.toNat then 1 else 0 } ∧
    Performs 0x25 x y n (.gteU x y) s { S := if x.toNat ≥ y.toNat then 1 else 0 }

/-- R140 to R144: the five signed compares, in the order of the signed values. -/
def Obligations.SignedBooleanCompares : Prop :=
  ∀ (s : State) (x y : Wide) (n : Word),
    Performs 0xA1 x y n (.eqI x y) s { S := if x.toInt = y.toInt then 1 else 0 } ∧
    Performs 0xA2 x y n (.ltI x y) s { S := if x.toInt < y.toInt then 1 else 0 } ∧
    Performs 0xA3 x y n (.lteI x y) s { S := if x.toInt ≤ y.toInt then 1 else 0 } ∧
    Performs 0xA4 x y n (.gtI x y) s { S := if x.toInt > y.toInt then 1 else 0 } ∧
    Performs 0xA5 x y n (.gteI x y) s { S := if x.toInt ≥ y.toInt then 1 else 0 }

/-- The three-way compares (R133, R139), with -1 for less and +1 for greater, which the spec takes
`from general knowledge` (D19, log 13). -/
def Obligations.ThreeWayCompares : Prop :=
  ∀ (s : State) (x y : Wide) (n : Word),
    Performs 0x20 x y n (.cmpU x y) s
      { S := if x.toNat < y.toNat then MAXU64 else if x.toNat = y.toNat then 0 else 1 } ∧
    Performs 0xA0 x y n (.cmpI x y) s
      { S := if x.toInt < y.toInt then MAXU64 else if x.toInt = y.toInt then 0 else 1 }

/-- The six absolute-value compares (R145 to R150) order the magnitudes of the signed values, `SMIN`
the largest: the reading of decision D22, at which the model's `ABSCMP_READING` stands (log 12). That
`ABSCMP.I` answers -1 for less and +1 for greater is decision D19, which the spec takes `from general
knowledge` (log 13). -/
def Obligations.AbsoluteCompares : Prop :=
  ∀ (s : State) (x y : Wide) (n : Word),
    Performs 0xA8 x y n (.abscmpI x y) s
      { S := if x.toInt.natAbs < y.toInt.natAbs then MAXU64
             else if x.toInt.natAbs = y.toInt.natAbs then 0 else 1 } ∧
    Performs 0xA9 x y n (.abseqI x y) s { S := if x.toInt.natAbs = y.toInt.natAbs then 1 else 0 } ∧
    Performs 0xAA x y n (.absltI x y) s { S := if x.toInt.natAbs < y.toInt.natAbs then 1 else 0 } ∧
    Performs 0xAB x y n (.abslteI x y) s { S := if x.toInt.natAbs ≤ y.toInt.natAbs then 1 else 0 } ∧
    Performs 0xAC x y n (.absgtI x y) s { S := if x.toInt.natAbs > y.toInt.natAbs then 1 else 0 } ∧
    Performs 0xAD x y n (.absgteI x y) s { S := if x.toInt.natAbs ≥ y.toInt.natAbs then 1 else 0 }

/-- The two readings of the absolute-value compares differ only when an operand is `SMIN` (R132, U7),
and there they do: `SMIN` is above every other magnitude in the one and below it in the other. That above
is +1 and below is -1 is decision D19 (log 13). -/
def Obligations.AbsReadingsDifferAtSminOnly : Prop :=
  (∀ x y : Wide, x ≠ SMIN → y ≠ SMIN → cmpabs128 .unsigned x y = cmpabs128 .signed x y) ∧
  ∀ y : Wide, y ≠ SMIN → cmpabs128 .unsigned SMIN y = 1 ∧ cmpabs128 .signed SMIN y = -1

/-- R151, for each of the three orders: exactly one of less, equal, greater holds, the other two
compares are their unions, swapping the operands mirrors the result, and equality of the values is
equality of the bits in the first two orders and up to negation in the third. -/
def Obligations.OrderLaws : Prop :=
  (∀ cmp : Wide → Wide → Int,
    cmp = cmpu128 ∨ cmp = cmps128 ∨ cmp = cmpabs128 .unsigned → ∀ x y : Wide,
      (isLt (cmp x y) = (!isEq (cmp x y) && !isGt (cmp x y))) ∧
      (isEq (cmp x y) = true → isGt (cmp x y) = false) ∧
      isLte (cmp x y) = (isLt (cmp x y) || isEq (cmp x y)) ∧
      isGte (cmp x y) = (isGt (cmp x y) || isEq (cmp x y)) ∧
      isLt (cmp x y) = isGt (cmp y x) ∧ cmp x y = -cmp y x) ∧
  ∀ x y : Wide, (cmpu128 x y = 0 ↔ x = y) ∧ (cmps128 x y = 0 ↔ x = y) ∧
    (cmpabs128 .unsigned x y = 0 ↔ x = y ∨ y = neg128 x)

/-! ### Shift -/

/-- R164, R165, R169, R170: the left shifts of both engines, bit by bit, for every amount 0 to 2^64-1;
the amount is never reduced. -/
def Obligations.LeftShifts : Prop :=
  ∀ (s : State) (x y : Wide) (n : Word), ∃ z1 z : Wide,
    Performs 0x30 x y n (.lshiftU x) s { Z := z1 } ∧ Performs 0xB0 x y n (.lshiftI x) s { Z := z1 } ∧
    Performs 0x31 x y n (.lshiftnU x n) s { Z := z } ∧
    Performs 0xB1 x y n (.lshiftnI x n) s { Z := z } ∧
    ∀ i, i < 128 → z1.getLsbD i = (decide (1 ≤ i) && x.getLsbD (i - 1)) ∧
      z.getLsbD i = (decide (n.toNat ≤ i) && x.getLsbD (i - n.toNat))

/-- R166, R167, R168: the logical right shifts, bit by bit, by one, by `N` and by the 128-bit value of
`B`; an amount of 128 or more gives zero. -/
def Obligations.LogicalRightShifts : Prop :=
  ∀ (s : State) (x y : Wide) (n : Word), ∃ z1 z zv : Wide,
    Performs 0x32 x y n (.rshiftU x) s { Z := z1 } ∧
    Performs 0x33 x y n (.rshiftnU x n) s { Z := z } ∧
    Performs 0x34 x y n (.rshiftvU x y) s { Z := zv } ∧
    ∀ i, i < 128 → z1.getLsbD i = (decide (i + 1 < 128) && x.getLsbD (i + 1)) ∧
      z.getLsbD i = (decide (i + n.toNat < 128) && x.getLsbD (i + n.toNat)) ∧
      zv.getLsbD i = (decide (i + y.toNat < 128) && x.getLsbD (i + y.toNat))

/-- The arithmetic right shifts (R171 to R173): the sign fills from the top. That `RSHIFT.I` and
`RSHIFTV.I` are arithmetic, and what `RSHIFTV.I` gives for an amount of 128 or more, is decision D21,
at which the model's `RSHIFTV_I_RANGE` stands (log 12). -/
def Obligations.ArithmeticRightShifts : Prop :=
  ∀ (s : State) (x y : Wide) (n : Word), ∃ z1 z zv : Wide,
    Performs 0xB2 x y n (.rshiftI x) s { Z := z1 } ∧
    Performs 0xB3 x y n (.rshiftnI x n) s { Z := z } ∧
    Performs 0xB4 x y n (.rshiftvI x y) s { Z := zv } ∧
    (∀ i, i < 128 → z1.getLsbD i = x.getLsbD (if i + 1 < 128 then i + 1 else 127) ∧
      z.getLsbD i = x.getLsbD (if i + n.toNat < 128 then i + n.toNat else 127) ∧
      zv.getLsbD i = x.getLsbD (if i + y.toNat < 128 then i + y.toNat else 127)) ∧
    z1.toInt = x.toInt / 2 ∧ z.toInt = x.toInt / 2 ^ n.toNat

/-- The laws of R174 on the word-level definitions, for every amount: shifting right and back clears
the low bits, and amounts add (the lines after the first are marked `derived`). -/
def Obligations.ShiftLaws : Prop :=
  ∀ (x : Wide) (m n : Nat),
    (∀ i, i < 128 → (shl128 (shr128 x n) n).getLsbD i = (decide (n ≤ i) && x.getLsbD i)) ∧
    shl128 (shl128 x m) n = shl128 x (m + n) ∧ shr128 (shr128 x m) n = shr128 x (m + n) ∧
    sar128 (sar128 x m) n = sar128 x (m + n) ∧ shl128 x 1 = add128 x x ∧
    (shr128 x n = sar128 x n ↔ x.getLsbD 127 = false ∨ n = 0)

/-! ### Multiply -/

/-- The products of both engines (R182, R183): the low 128 bits of the unsigned product, which are also
the signed product brought into range modulo 2^128 (the value R181 and R183 mark `derived`). -/
def Obligations.Products : Prop :=
  ∀ (s : State) (x y : Wide) (n : Word), ∃ z : Wide,
    Performs 0x40 x y n (.mulU x y) s { Z := z } ∧ Performs 0xC0 x y n (.mulI x y) s { Z := z } ∧
    z.toNat = x.toNat * y.toNat % 2 ^ 128 ∧ z.toInt = (x.toInt * y.toInt).bmod (2 ^ 128)

/-- The multiplier's steps (R180), from registers that hold anything: after `k` steps the accumulator
holds the product by the low `k` bits of the second operand; the tree of `MUL_STRUCTURE` gives what
the 128 steps give (R181, marked `derived`). -/
def Obligations.MultiplierSteps : Prop :=
  ∀ (x y : Wide) (r : MulRegs) (w w' : Work),
    (∀ k, k ≤ 128 →
      (mulLoop k x y (mulLoad r)).ACC.toNat = x.toNat * (y.toNat % 2 ^ k) % 2 ^ 128) ∧
    (mulUnit .serial x y w).1 = (mulUnit .tree x y w').1

/-! ### Bit length -/

/-- R190, R193, R194: the bit length of the 64-bit word, and of the 128-bit value: 0 for zero, else the
one `k` with `2^(k-1) <= x < 2^k`, zero-extended on `S`. -/
def Obligations.BitLengths : Prop :=
  ∀ (s : State) (x y : Wide) (n : Word), ∃ k64 k128 : Nat,
    Performs 0x51 x y n (.bitlen64 n) s { S := BitVec.ofNat 64 k64 } ∧
    Performs 0x50 x y n (.bitlenU x) s { S := BitVec.ofNat 64 k128 } ∧
    k64 ≤ 64 ∧ k128 ≤ 128 ∧
    (n.toNat = 0 → k64 = 0) ∧ (n.toNat ≠ 0 → 1 ≤ k64 ∧ 2 ^ (k64 - 1) ≤ n.toNat ∧ n.toNat < 2 ^ k64) ∧
    (x.toNat = 0 → k128 = 0) ∧
    (x.toNat ≠ 0 → 1 ≤ k128 ∧ 2 ^ (k128 - 1) ≤ x.toNat ∧ x.toNat < 2 ^ k128)

/-- The bit-length search's registers (R191, R36), whatever they held before: after the three tests `X` is
what is left of the operand above its low `CNTB` bits, it fits the table, and `CNTB` is a multiple of 8
that counts only what it had to. Then the table of R41, range by range. -/
def Obligations.BitLengthSearchAndTable : Prop :=
  (∀ (x : Word) (r : LenRegs), (lenRun x r).X.toNat = x.toNat / 2 ^ (lenRun x r).CNTB.toNat ∧
    (lenRun x r).X.toNat < 2 ^ 8 ∧ 8 ∣ (lenRun x r).CNTB.toNat ∧
    ((lenRun x r).CNTB ≠ 0 → (lenRun x r).X ≠ 0)) ∧
  lut8Table.length = 256 ∧ lut8 0 = 0 ∧ ∀ i : BitVec 8, i ≠ 0 →
    (lut8 i = 1 ↔ i = 1) ∧ (lut8 i = 2 ↔ 2 ≤ i ∧ i ≤ 3) ∧ (lut8 i = 3 ↔ 4 ≤ i ∧ i ≤ 7) ∧
    (lut8 i = 4 ↔ 8 ≤ i ∧ i ≤ 15) ∧ (lut8 i = 5 ↔ 16 ≤ i ∧ i ≤ 31) ∧
    (lut8 i = 6 ↔ 32 ≤ i ∧ i ≤ 63) ∧ (lut8 i = 7 ↔ 64 ≤ i ∧ i ≤ 127) ∧ (lut8 i = 8 ↔ 128 ≤ i)

/-! ### Divide -/

/-- The unsigned divisions (R208 to R210) with a nonzero divisor: quotient and remainder of floor
division (R206, marked `derived`), on `Z` and `R`, or either alone on `Z`. -/
def Obligations.UnsignedDivision : Prop :=
  ∀ (s : State) (x d : Wide) (n : Word), d ≠ ZERO → ∃ q r : Wide,
    Performs 0x41 x d n (.divmodU x d) s { Z := q, R := r } ∧
    Performs 0x42 x d n (.divU x d) s { Z := q } ∧ Performs 0x43 x d n (.modU x d) s { Z := r } ∧
    q.toNat = x.toNat / d.toNat ∧ r.toNat = x.toNat % d.toNat

/-- The signed divisions (R222 to R224) with a nonzero divisor truncate toward zero, the remainder
having the dividend's sign (R221, marked `derived`); the one quotient out of range, `SMIN / -1`, wraps
to `SMIN` without an error (D34, log 13). -/
def Obligations.SignedDivision : Prop :=
  ∀ (s : State) (x d : Wide) (n : Word), d ≠ ZERO → ∃ q r : Wide,
    Performs 0xC1 x d n (.divmodI x d) s { Z := q, R := r } ∧
    Performs 0xC2 x d n (.divI x d) s { Z := q } ∧ Performs 0xC3 x d n (.modI x d) s { Z := r } ∧
    q.toInt = (x.toInt.tdiv d.toInt).bmod (2 ^ 128) ∧ r.toInt = x.toInt.tmod d.toInt ∧
    (x = SMIN → d = ONES → q = SMIN ∧ r = ZERO) ∧
    (¬ (x = SMIN ∧ d = ONES) → q.toInt = x.toInt.tdiv d.toInt)

/-- The division identity of R211 and R225, as three transactions on one core, for both types: the
quotient times the divisor plus the remainder is the dividend, and the remainder is below the divisor
(in magnitude, with the dividend's sign or zero, for the signed type). The order of magnitudes of
`ABSLT.I` is decision D22, at which the model's `ABSCMP_READING` stands (log 12); the wrapped quotient of
`SMIN / -1`, for which the identity holds too, is D34 (log 13). -/
def Obligations.DivisionIdentity : Prop :=
  ∀ (s : State) (x d : Wide), s.reqReady = true → d ≠ ZERO →
    (∃ q r p : Wide, ∃ t u : State,
      s.transact { OP := 0x41, A := x, B := d } = .next t ∧ t.rspValid = true ∧
      t.rsp = { Z := q, R := r } ∧
      t.transact { OP := 0x40, A := q, B := d } = .next u ∧ u.rspValid = true ∧ u.rsp = { Z := p } ∧
      Responds u { OP := 0x00, A := p, B := r } { Z := x } ∧
      Responds u { OP := 0x22, A := r, B := d } { S := 1 }) ∧
    ∃ q r p : Wide, ∃ t u : State,
      s.transact { OP := 0xC1, A := x, B := d } = .next t ∧ t.rspValid = true ∧
      t.rsp = { Z := q, R := r } ∧
      t.transact { OP := 0xC0, A := q, B := d } = .next u ∧ u.rspValid = true ∧ u.rsp = { Z := p } ∧
      Responds u { OP := 0x80, A := p, B := r } { Z := x } ∧
      Responds u { OP := 0xAA, A := r, B := d } { S := 1 } ∧
      (r = ZERO ∨ r.getLsbD 127 = x.getLsbD 127)

/-- The fast paths change no result (R207, in part marked `derived`): with `DIV_FAST_PATHS` true or
false, the multiplier of either structure and the registers holding anything, both dividers give the
same quotient and remainder, or both raise. -/
def Obligations.FastPathsChangeNoResult : Prop :=
  ∀ (m m' : Config.MulStructure) (x d : Wide) (w w' : Work),
    (udivmodUnit true m x d w).map (·.1) = (udivmodUnit false m' x d w').map (·.1) ∧
    (sdivmodUnit true m x d w).map (·.1) = (sdivmodUnit false m' x d w').map (·.1) ∧
    (udivmodUnit true m x d w = none ↔ d = ZERO) ∧ (sdivmodUnit true m x d w = none ↔ d = ZERO)

/-- The alignment and the loop invariant of R205 (marked `derived`), for a divisor no longer than the
dividend: loading establishes it with `n + 1` iterations left, one iteration takes it from `c + 1` to
`c`, and at the end the quotient and the remainder are those of the division. -/
def Obligations.DivisionLoopInvariant : Prop :=
  ∀ (x d : Wide) (w : Work) (n : Nat), d ≠ ZERO →
    (bitlen128Unit x w).1 = (bitlen128Unit d w).1 + n →
    n ≤ 127 ∧ (∀ r : DivRegs, DivInv x d n (n + 1) (divLoad x d n r)) ∧
    (∀ (c : Nat) (r : DivRegs), c ≤ n → DivInv x d n (c + 1) r → DivInv x d n c (divStep r)) ∧
    ∀ r : DivRegs, DivInv x d n 0 r → r.Q = x / d ∧ r.REM = x % d

/-- The signed wrapper's flags and magnitudes (R220, R32, R35), whatever they held before: each flag says
whether its operand is negative, each magnitude is the absolute value read unsigned (`SMIN` included),
the divisor's is zero only for a zero divisor; and the unsigned engine leaves them as it finds them. -/
def Obligations.SignedWrapperNormalises : Prop :=
  ∀ (x d : Wide) (g : SignRegs),
    ((signLoad x d g).dividendSign = .negative ↔ x.toInt < 0) ∧
    ((signLoad x d g).divisorSign = .negative ↔ d.toInt < 0) ∧
    (signLoad x d g).xm.toNat = x.toInt.natAbs ∧ (signLoad x d g).dm.toNat = d.toInt.natAbs ∧
    ((signLoad x d g).dm = ZERO ↔ d = ZERO) ∧
    ∀ (fast : Bool) (m : Config.MulStructure) (w w' : Work) (v : Wide × Wide),
      udivmodUnit fast m x d w = some (v, w') → w'.sgn = w.sgn

/-! ### Conversions and predicates -/

/-- R232, R242: widening from an unsigned 64-bit word, exact for every word and the same for both
types. -/
def Obligations.UnsignedWordWidening : Prop :=
  ∀ (s : State) (x y : Wide) (w : Word), ∃ z : Wide,
    Performs 0x60 x y w (.fromu64U w) s { Z := z } ∧
    Performs 0xE0 x y w (.fromu64I w) s { Z := z } ∧
    z.toNat = w.toNat ∧ z.toInt = w.toNat ∧ hiWord z = 0

/-- Widening from a signed 64-bit word (R233, R243): sign extension, exact for the signed type and the
same bits for the unsigned type, where a negative word wraps modulo 2^128; decision D25 (log 13). -/
def Obligations.SignedWordWidening : Prop :=
  ∀ (s : State) (x y : Wide) (w : Word), ∃ z : Wide,
    Performs 0x61 x y w (.fromi64U w) s { Z := z } ∧
    Performs 0xE1 x y w (.fromi64I w) s { Z := z } ∧
    z.toInt = w.toInt ∧ (z.toNat : Int) = w.toInt % 2 ^ 128 ∧ loWord z = w ∧
    (w = MAXU64 → z = ONES)

/-- R234, R235, R244, R245: narrowing keeps the low word and drops the high word without a check. -/
def Obligations.SilentNarrowing : Prop :=
  ∀ (s : State) (x y : Wide) (n : Word), ∃ v : Word,
    Performs 0x62 x y n (.tou64U x) s { S := v } ∧ Performs 0x63 x y n (.toi64U x) s { S := v } ∧
    Performs 0xE2 x y n (.tou64I x) s { S := v } ∧ Performs 0xE3 x y n (.toi64I x) s { S := v } ∧
    v.toNat = x.toNat % 2 ^ 64 ∧ v.toInt = (x.toNat : Int).bmod (2 ^ 64) ∧
    v.toInt = x.toInt.bmod (2 ^ 64) ∧ (v.toNat : Int) = x.toInt % 2 ^ 64

/-- R236, R246: the reinterpretations copy the 128 bits; only the reading of bit 127 differs. -/
def Obligations.Reinterpretations : Prop :=
  ∀ (s : State) (x y : Wide) (n : Word),
    Performs 0x64 x y n (.tosignedU x) s { Z := x } ∧
    Performs 0xE4 x y n (.tounsignedI x) s { Z := x } ∧
    x.toInt = (x.toNat : Int) - (if x.getLsbD 127 then 2 ^ 128 else 0)

/-- The four range predicates (R237, R238, R247, R248), by value: the spec's decision D24 (log 13). -/
def Obligations.RangePredicates : Prop :=
  ∀ (s : State) (x y : Wide) (n : Word),
    Performs 0x65 x y n (.fitss64U x) s { S := if x.toNat ≤ 2 ^ 63 - 1 then 1 else 0 } ∧
    Performs 0x66 x y n (.fitsu64U x) s { S := if x.toNat ≤ 2 ^ 64 - 1 then 1 else 0 } ∧
    Performs 0xE5 x y n (.fitss64I x) s
      { S := if -2 ^ 63 ≤ x.toInt ∧ x.toInt ≤ 2 ^ 63 - 1 then 1 else 0 } ∧
    Performs 0xE6 x y n (.fitsu64I x) s
      { S := if 0 ≤ x.toInt ∧ x.toInt ≤ 2 ^ 64 - 1 then 1 else 0 }

/-- The sign predicates (R249 to R251): negative, strictly positive, and the three-way sign. That zero
is not positive and that `SIGN` is three-way is decision D23 (log 12); that its -1 is for less than zero and
its +1 for greater is D19 (log 13). -/
def Obligations.SignPredicates : Prop :=
  ∀ (s : State) (x y : Wide) (n : Word),
    Performs 0xE8 x y n (.isnegI x) s { S := if x.toInt < 0 then 1 else 0 } ∧
    Performs 0xE9 x y n (.isposI x) s { S := if 0 < x.toInt then 1 else 0 } ∧
    Performs 0xEA x y n (.signI x) s
      { S := if x.toInt < 0 then MAXU64 else if x.toInt = 0 then 0 else 1 }

/-- The laws of R253 (marked `derived`) on the shared definitions: (a), (b), (c), (d) and (g). -/
def Obligations.ConversionLaws : Prop :=
  ∀ (w : Word) (x : Wide),
    narrow (widenU w) = w ∧ narrow (widenS w) = w ∧
    (widenU (narrow x) = x ↔ fitsU64I x = true) ∧ (widenS (narrow x) = x ↔ fitsS64I x = true) ∧
    (fitsS64U x = true → fitsU64U x = true) ∧ fitsU64U x = fitsU64I x ∧
    (fitsS64U x ≠ fitsS64I x ↔ hiWord x = MAXU64 ∧ (loWord x).getLsbD 63 = true)
end

