-- ==== Sys2Proof/Laws/Decode.lean ====
section
/-! SUPPORT. The formats and the decoder: the fields of a word that is put together from fields, and
what the decoder can answer (30_encoding R60, R63, R69). -/

namespace Sys2Proof

open Sys2Proof.Machine (Request Response)

/-- A 328-bit word read back field by field (R60). -/
theorem requestOfWord_requestWord (q : Request) : requestOfWord (requestWord q) = q := by
  obtain ⟨op, a, b, n⟩ := q
  simp only [requestOfWord, requestWord, Request.mk.injEq]
  refine ⟨?_, ?_, ?_, ?_⟩ <;>
  · apply BitVec.eq_of_getLsbD_eq
    intro i hi
    rw [BitVec.getLsbD_extractLsb']
    simp only [BitVec.getLsbD_append, hi, decide_true, Bool.true_and]
    split_ifs <;> first | omega | exact congrArg _ (by omega)

/-- The decoder on an encoded request sees its fields. -/
theorem decode_requestWord (q : Request) : decode (requestWord q) = decodeRequest q := by
  rw [decode, requestOfWord_requestWord]

/-- A row that is found stands in the table under that code. -/
theorem mem_of_lookupCode {op : BitVec 8} {form : Request → Instr} :
    ∀ {rows : List (BitVec 8 × (Request → Instr))}, lookupCode op rows = some form →
      (op, form) ∈ rows := by
  intro rows
  induction rows with
  | nil => intro h; simp [lookupCode] at h
  | cons row rows ih =>
    intro h
    rw [lookupCode] at h
    split at h
    · next e =>
      obtain ⟨c, f⟩ := row
      simp only [Option.some.injEq] at h e
      subst h e
      exact List.mem_cons_self
    · exact List.mem_cons_of_mem _ (ih h)

/-- The decoder answers with an instruction, or refuses by name (R69). -/
theorem decodeRequest_cases (q : Request) :
    (∃ form, lookupCode q.OP decodeTable = some form ∧ decodeRequest q = .ok (form q)) ∨
    (lookupCode q.OP decodeTable = none ∧ decodeRequest q = .error (.reservedOpcode q.OP)) := by
  unfold decodeRequest
  cases h : lookupCode q.OP decodeTable with
  | some form => exact .inl ⟨form, rfl, rfl⟩
  | none => exact .inr ⟨rfl, rfl⟩

/-- The two descriptions of the legal codes, by table and by group and function, are one (R62, R69). -/
theorem opLegal_eq_isSome : ∀ op : BitVec 8, opLegal op = (lookupCode op decodeTable).isSome := by
  decide +kernel

/-- A request with zero in every field its operation does not read (R65, R80). -/
def canonical (q : Request) : Request :=
  { OP := q.OP
    A := if opReadsA q.OP then q.A else 0
    B := if opReadsB q.OP then q.B else 0
    N := if opReadsN q.OP then q.N else 0 }

/-- Every row of the table builds the instruction whose encoding is the request's canonical form. -/
theorem decodeTable_canonical (a b : Wide) (n : Word) :
    ∀ row ∈ decodeTable, encodeRequest (row.2 ⟨row.1, a, b, n⟩) = canonical ⟨row.1, a, b, n⟩ := by
  simp only [decodeTable, codesAddSubU, codesBitwiseU, codesCompareU, codesShiftU, codesMulDivU,
    codesLengthU, codesConvertU, codesAddSubI, codesBitwiseI, codesCompareI, codesShiftI,
    codesMulDivI, codesConvertI, List.forall_mem_append, List.forall_mem_cons]
  repeat' first
    | exact fun _ h => absurd h List.not_mem_nil
    | apply And.intro
    | simp [canonical, encodeRequest, opReadsA, opReadsB, opReadsN, opLegal, opGroup, opFunction,
        opSigned]

/-- Decoding loses nothing but the fields that are not read (R62, R65). -/
theorem encodeRequest_of_decodeRequest {q : Request} {i : Instr} (h : decodeRequest q = .ok i) :
    encodeRequest i = canonical q := by
  rcases decodeRequest_cases q with ⟨form, hl, hd⟩ | ⟨-, hd⟩
  · rw [h] at hd
    cases hd
    exact decodeTable_canonical q.A q.B q.N _ (mem_of_lookupCode hl)
  · rw [h] at hd
    cases hd

end Sys2Proof
end

