-- ==== Sys2Proof/Laws/State.lean ====
section
/-! SUPPORT. One lemma per field per update of State, so that no proof unfolds a record update. -/

namespace Sys2Proof.Machine

@[simp] theorem State.answer_inputs (s : State) (r : Response) : (s.answer r).inputs = s.inputs := rfl
@[simp] theorem State.answer_reqReady (s : State) (r : Response) : (s.answer r).reqReady = true := rfl
@[simp] theorem State.answer_req (s : State) (r : Response) : (s.answer r).req = s.req := rfl
@[simp] theorem State.answer_rspValid (s : State) (r : Response) : (s.answer r).rspValid = true := rfl
@[simp] theorem State.answer_rsp (s : State) (r : Response) : (s.answer r).rsp = r := rfl
@[simp] theorem State.answer_work (s : State) (r : Response) : (s.answer r).work = Config.freeWork s.freeIx := rfl
@[simp] theorem State.answer_freeIx (s : State) (r : Response) : (s.answer r).freeIx = s.freeIx + 1 := rfl

@[simp] theorem State.raiseDivisionByZero_inputs (s : State) : (s.raiseDivisionByZero).inputs = s.inputs := rfl
@[simp] theorem State.raiseDivisionByZero_reqReady (s : State) : (s.raiseDivisionByZero).reqReady = true := rfl
@[simp] theorem State.raiseDivisionByZero_req (s : State) : (s.raiseDivisionByZero).req = s.req := rfl
@[simp] theorem State.raiseDivisionByZero_rspValid (s : State) : (s.raiseDivisionByZero).rspValid = true := rfl
@[simp] theorem State.raiseDivisionByZero_rsp (s : State) : (s.raiseDivisionByZero).rsp = { ERR := 1, Z := ZERO, R := ZERO, S := 0 } := rfl
@[simp] theorem State.raiseDivisionByZero_work (s : State) : (s.raiseDivisionByZero).work = Config.freeWork s.freeIx := rfl
@[simp] theorem State.raiseDivisionByZero_freeIx (s : State) : (s.raiseDivisionByZero).freeIx = s.freeIx + 1 := rfl

@[simp] theorem State.withdraw_inputs (s : State) : (s.withdraw).inputs = s.inputs := rfl
@[simp] theorem State.withdraw_reqReady (s : State) : (s.withdraw).reqReady = s.reqReady := rfl
@[simp] theorem State.withdraw_req (s : State) : (s.withdraw).req = s.req := rfl
@[simp] theorem State.withdraw_rspValid (s : State) : (s.withdraw).rspValid = false := rfl
@[simp] theorem State.withdraw_rsp (s : State) : (s.withdraw).rsp = Config.freeResponse s.freeIx := rfl
@[simp] theorem State.withdraw_work (s : State) : (s.withdraw).work = s.work := rfl
@[simp] theorem State.withdraw_freeIx (s : State) : (s.withdraw).freeIx = s.freeIx + 1 := rfl

@[simp] theorem State.transfer_inputs (s : State) (r : Request) : (s.transfer r).inputs = s.inputs := rfl
@[simp] theorem State.transfer_reqReady (s : State) (r : Request) : (s.transfer r).reqReady = false := rfl
@[simp] theorem State.transfer_req (s : State) (r : Request) : (s.transfer r).req = r := rfl
@[simp] theorem State.transfer_rspValid (s : State) (r : Request) : (s.transfer r).rspValid = false := rfl
@[simp] theorem State.transfer_rsp (s : State) (r : Request) : (s.transfer r).rsp = Config.freeResponse s.freeIx := rfl
@[simp] theorem State.transfer_work (s : State) (r : Request) : (s.transfer r).work = s.work := rfl
@[simp] theorem State.transfer_freeIx (s : State) (r : Request) : (s.transfer r).freeIx = s.freeIx + 1 := rfl

@[simp] theorem State.applyReset_inputs (s : State) : (s.applyReset).inputs = s.inputs := rfl
@[simp] theorem State.applyReset_reqReady (s : State) : (s.applyReset).reqReady = true := rfl
@[simp] theorem State.applyReset_req (s : State) : (s.applyReset).req = s.req := rfl
@[simp] theorem State.applyReset_rspValid (s : State) : (s.applyReset).rspValid = false := rfl
@[simp] theorem State.applyReset_rsp (s : State) : (s.applyReset).rsp = Config.freeResponse s.freeIx := rfl
@[simp] theorem State.applyReset_work (s : State) : (s.applyReset).work = Config.freeWork s.freeIx := rfl
@[simp] theorem State.applyReset_freeIx (s : State) : (s.applyReset).freeIx = s.freeIx + 1 := rfl

@[simp] theorem State.place_inputs (s : State) (r : Request) : (s.place r).inputs = holdReset s.inputs := rfl
@[simp] theorem State.place_reqReady (s : State) (r : Request) : (s.place r).reqReady = false := rfl
@[simp] theorem State.place_req (s : State) (r : Request) : (s.place r).req = r := rfl
@[simp] theorem State.place_rspValid (s : State) (r : Request) : (s.place r).rspValid = s.rspValid := rfl
@[simp] theorem State.place_rsp (s : State) (r : Request) : (s.place r).rsp = s.rsp := rfl
@[simp] theorem State.place_work (s : State) (r : Request) : (s.place r).work = s.work := rfl
@[simp] theorem State.place_freeIx (s : State) (r : Request) : (s.place r).freeIx = s.freeIx := rfl

/-- A response makes the working registers of the transaction dead (U3). -/
@[simp] theorem State.answer_withWork (s : State) (w : Work) (r : Response) :
    State.answer { s with work := w } r = s.answer r := rfl

end Sys2Proof.Machine
end

