-- ==== Sys2Proof/Laws/Ops.lean ====
section
/-! SUPPORT. What each shared operation over the state can do, said once. -/

namespace Sys2Proof.Machine

/-- A result on `Z` completes, with `Z` alone driven. -/
theorem State.answerZ_eq (s : State) (z : Wide) : s.answerZ z = .next (s.answer { Z := z }) := rfl

/-- A result on `S` completes, with `S` alone driven. -/
theorem State.answerS_eq (s : State) (v : Word) : s.answerS v = .next (s.answer { S := v }) := rfl

/-- A multiplication completes with the multiplier's product on `Z`. -/
theorem State.multiply_eq (s : State) (x y : Wide) :
    s.multiply x y = .next (s.answer { Z := (mulUnit Config.mulStructure x y s.work).1 }) := rfl

/-- A bit length completes with the length on `S`. -/
theorem State.answerLength_eq (s : State) (found : Nat × Work) :
    s.answerLength found = .next (s.answer { S := lengthS found.1 }) := rfl

/-- A division completes: with the exception's response, or with what `form` makes of the result. -/
theorem State.answerDivision_eq (s : State) (form : Wide → Wide → Response)
    (res : Option ((Wide × Wide) × Work)) :
    s.answerDivision form res = .next (match res with
      | none => s.raiseDivisionByZero
      | some (qr, _) => s.answer (form qr.1 qr.2)) := by
  cases res <;> rfl

/-- `accept` takes a legal request or refuses a reserved code, nothing else (R69, R333). -/
theorem State.accept_cases (s : State) (w : BitVec 328) :
    (∃ i, decode w = .ok i ∧ s.accept w = .next (s.transfer (requestOfWord w))) ∨
    (∃ op, decode w = .error (.reservedOpcode op) ∧
      s.accept w = .refused (.reservedOpcode op)) := by
  unfold State.accept
  cases h : decode w with
  | ok i => exact .inl ⟨i, rfl, rfl⟩
  | error e => cases e with | reservedOpcode op => exact .inr ⟨op, rfl, rfl⟩

/-- Whether the host asserts `RST` next. -/
theorem resetNext_eq_some {inputs rest : List HostInput} :
    resetNext inputs = some rest ↔ inputs = .reset :: rest := by
  cases inputs with
  | nil => simp [resetNext]
  | cons x xs => cases x <;> simp [resetNext]

/-- A placed request is not abandoned by a pending `RST`. -/
theorem resetNext_holdReset (inputs : List HostInput) : resetNext (holdReset inputs) = none := by
  unfold holdReset
  cases h : resetNext inputs with
  | none => exact h
  | some rest => rfl

end Sys2Proof.Machine
end

