-- ==== Sys2Proof/Laws/Words.lean ====
section
/-! SUPPORT. The two words of a 128-bit value, and what each function of R13 and R15 computes as an
operation on 128-bit vectors. -/

namespace Sys2Proof.Machine

/-! ### The pair of words (R10, R11) -/

theorem toNat_pair (h l : Word) : (pair h l).toNat = h.toNat * 2 ^ 64 + l.toNat := by
  have := l.isLt
  simp only [pair, BitVec.toNat_append, Nat.shiftLeft_eq]
  rw [← Nat.shiftLeft_eq, ← Nat.shiftLeft_add_eq_or_of_lt this, Nat.shiftLeft_eq]

theorem toNat_hiWord (v : Wide) : (hiWord v).toNat = v.toNat / 2 ^ 64 := by
  have := v.isLt
  simp only [hiWord, BitVec.extractLsb'_toNat, Nat.shiftRight_eq_div_pow]
  omega

theorem toNat_loWord (v : Wide) : (loWord v).toNat = v.toNat % 2 ^ 64 := by
  simp [loWord, BitVec.extractLsb'_toNat]

theorem hiWord_pair (h l : Word) : hiWord (pair h l) = h := by
  apply BitVec.eq_of_toNat_eq
  have := l.isLt
  rw [toNat_hiWord, toNat_pair]
  omega

theorem loWord_pair (h l : Word) : loWord (pair h l) = l := by
  apply BitVec.eq_of_toNat_eq
  have := l.isLt
  rw [toNat_loWord, toNat_pair]
  omega

theorem pair_hiWord_loWord (v : Wide) : pair (hiWord v) (loWord v) = v := by
  apply BitVec.eq_of_toNat_eq
  rw [toNat_pair, toNat_hiWord, toNat_loWord]
  omega

theorem getLsbD_pair (h l : Word) (i : Nat) :
    (pair h l).getLsbD i = if i < 64 then l.getLsbD i else h.getLsbD (i - 64) := by
  exact BitVec.getLsbD_append

theorem getLsbD_hiWord (v : Wide) (i : Nat) :
    (hiWord v).getLsbD i = (decide (i < 64) && v.getLsbD (64 + i)) := by
  simp [hiWord, BitVec.getLsbD_extractLsb']

theorem getLsbD_loWord (v : Wide) (i : Nat) :
    (loWord v).getLsbD i = (decide (i < 64) && v.getLsbD i) := by
  simp [loWord, BitVec.getLsbD_extractLsb']

/-! ### Adder and subtractor (R100 to R102) -/

theorem add64_spec (x y : Word) (c : BitVec 1) :
    (add64 x y c).1.toNat + (add64 x y c).2.toNat * 2 ^ 64 = x.toNat + y.toNat + c.toNat := by
  have hx := x.isLt
  have hy := y.isLt
  have hc := c.isLt
  simp only [add64, BitVec.toNat_ofNat]
  split <;> simp <;> omega

theorem sub64_spec (x y : Word) (b : BitVec 1) :
    (sub64 x y b).1.toNat + y.toNat + b.toNat = x.toNat + (sub64 x y b).2.toNat * 2 ^ 64 := by
  have hx := x.isLt
  have hy := y.isLt
  have hb := b.isLt
  simp only [sub64, BitVec.toNat_ofInt]
  split <;> simp <;> omega

/-- The adder adds modulo 2^128 (R100). -/
theorem add128_eq (x y : Wide) : add128 x y = x + y := by
  apply BitVec.eq_of_toNat_eq
  have hl := add64_spec (loWord x) (loWord y) 0
  have hh := add64_spec (hiWord x) (hiWord y) (add64 (loWord x) (loWord y) 0).2
  have l1 := (add64 (loWord x) (loWord y) 0).1.isLt
  have l2 := (add64 (hiWord x) (hiWord y) (add64 (loWord x) (loWord y) 0).2).1.isLt
  have c0 : (0 : BitVec 1).toNat = 0 := rfl
  simp only [add128, toNat_pair, BitVec.toNat_add, toNat_hiWord, toNat_loWord, c0] at *
  omega

/-- The subtractor subtracts modulo 2^128 (R101). -/
theorem sub128_eq (x y : Wide) : sub128 x y = x - y := by
  apply BitVec.eq_of_toNat_eq
  have hl := sub64_spec (loWord x) (loWord y) 0
  have hh := sub64_spec (hiWord x) (hiWord y) (sub64 (loWord x) (loWord y) 0).2
  have l1 := (sub64 (loWord x) (loWord y) 0).1.isLt
  have l2 := (sub64 (hiWord x) (hiWord y) (sub64 (loWord x) (loWord y) 0).2).1.isLt
  have hx := x.isLt
  have hy := y.isLt
  have c0 : (0 : BitVec 1).toNat = 0 := rfl
  simp only [sub128, toNat_pair, BitVec.toNat_sub, toNat_hiWord, toNat_loWord, c0] at *
  omega

/-- Negation (R102). -/
theorem neg128_eq (x : Wide) : neg128 x = -x := by
  rw [neg128, sub128_eq]
  exact BitVec.zero_sub x

/-- The absolute value (R109). -/
theorem abs128_eq (x : Wide) : abs128 x = if x.msb then -x else x := by
  rw [abs128, neg128_eq]

/-! ### Bitwise (R111 to R119) -/

/-- A bitwise operation on words is the same operation on the whole value (R111). -/
theorem wordwise_getLsbD (f : Word → Word → Word) (g : Bool → Bool → Bool)
    (hf : ∀ a b i, i < 64 → (f a b).getLsbD i = g (a.getLsbD i) (b.getLsbD i))
    (x y : Wide) (i : Nat) (hi : i < 128) :
    (wordwise f x y).getLsbD i = g (x.getLsbD i) (y.getLsbD i) := by
  rw [wordwise, getLsbD_pair]
  split
  · next h => rw [hf _ _ _ h, getLsbD_loWord, getLsbD_loWord]; simp [h]
  · next h =>
    have h' : i - 64 < 64 := by omega
    have e : 64 + (i - 64) = i := by omega
    rw [hf _ _ _ h', getLsbD_hiWord, getLsbD_hiWord, e]
    simp [h']

theorem not128_eq (x : Wide) : not128 x = ~~~x := by
  apply BitVec.eq_of_getLsbD_eq
  intro i hi
  change (wordwise (fun a _ => not64 a) x x).getLsbD i = _
  rw [wordwise_getLsbD _ (fun a _ => !a) (by intro a b j hj; simp [not64, hj]) x x i hi]
  simp [hi]

theorem and128_eq (x y : Wide) : and128 x y = x &&& y := by
  apply BitVec.eq_of_getLsbD_eq
  intro i hi
  rw [and128, wordwise_getLsbD _ (· && ·) (by intro a b j hj; simp [and64]) x y i hi]
  simp

theorem andnot128_eq (x y : Wide) : andnot128 x y = x &&& ~~~y := by
  apply BitVec.eq_of_getLsbD_eq
  intro i hi
  rw [andnot128, wordwise_getLsbD _ (· && !·) (by intro a b j hj; simp [and64, not64, hj]) x y i hi]
  simp [hi]

theorem or128_eq (x y : Wide) : or128 x y = x ||| y := by
  apply BitVec.eq_of_getLsbD_eq
  intro i hi
  rw [or128, wordwise_getLsbD _ (· || ·) (by intro a b j hj; simp [or64]) x y i hi]
  simp

theorem nor128_eq (x y : Wide) : nor128 x y = ~~~(x ||| y) := by
  apply BitVec.eq_of_getLsbD_eq
  intro i hi
  rw [nor128, wordwise_getLsbD _ (fun a b => !(a || b)) (by intro a b j hj; simp [or64, not64, hj])
    x y i hi]
  simp [hi]

theorem nand128_eq (x y : Wide) : nand128 x y = ~~~(x &&& y) := by
  apply BitVec.eq_of_getLsbD_eq
  intro i hi
  rw [nand128, wordwise_getLsbD _ (fun a b => !(a && b))
    (by intro a b j hj; simp [and64, not64, hj]) x y i hi]
  simp [hi]

theorem xor128_eq (x y : Wide) : xor128 x y = x ^^^ y := by
  apply BitVec.eq_of_getLsbD_eq
  intro i hi
  rw [xor128, wordwise_getLsbD _ (fun a b => a ^^ b) (by intro a b j hj; simp [xor64]) x y i hi]
  simp

theorem xnor128_eq (x y : Wide) : xnor128 x y = ~~~(x ^^^ y) := by
  apply BitVec.eq_of_getLsbD_eq
  intro i hi
  rw [xnor128, wordwise_getLsbD _ (fun a b => !(a ^^ b))
    (by intro a b j hj; simp [xor64, not64, hj]) x y i hi]
  simp [hi]

/-! ### Comparator (R130 to R132) -/

/-- The signed value of a pair: high word signed, low word unsigned (R11). -/
theorem toInt_eq_words (x : Wide) : x.toInt = (hiWord x).toInt * 2 ^ 64 + (loWord x).toNat := by
  have hx := x.isLt
  rw [BitVec.toInt_eq_toNat_cond, BitVec.toInt_eq_toNat_cond, toNat_hiWord, toNat_loWord]
  split <;> split <;> push_cast <;> omega

theorem toNat_eq_words (x : Wide) : x.toNat = (hiWord x).toNat * 2 ^ 64 + (loWord x).toNat := by
  rw [toNat_hiWord, toNat_loWord]
  omega

/-- The unsigned compare orders the unsigned values (R130). -/
theorem cmpu128_eq (x y : Wide) :
    cmpu128 x y = if x.toNat < y.toNat then -1 else if y.toNat < x.toNat then 1 else 0 := by
  have := (loWord x).isLt
  have := (loWord y).isLt
  rw [toNat_eq_words x, toNat_eq_words y]
  simp only [cmpu128, ltu64, decide_eq_true_eq]
  split_ifs <;> omega

/-- The signed compare orders the signed values (R131). -/
theorem cmps128_eq (x y : Wide) :
    cmps128 x y = if x.toInt < y.toInt then -1 else if y.toInt < x.toInt then 1 else 0 := by
  have := (loWord x).isLt
  have := (loWord y).isLt
  rw [toInt_eq_words x, toInt_eq_words y]
  simp only [cmps128, lts64, ltu64, decide_eq_true_eq]
  split_ifs <;> omega

/-- The magnitude, `SMIN` included (R132). -/
theorem toNat_absmag (x : Wide) : (absmag x).toNat = x.toInt.natAbs := by
  have hx := x.isLt
  rw [absmag, abs128_eq, BitVec.toInt_eq_toNat_cond]
  by_cases h : x.msb
  · have := BitVec.msb_eq_true_iff_two_mul_ge.mp h
    simp only [h, if_true, BitVec.toNat_neg]
    split <;> omega
  · have h' : x.msb = false := by simpa using h
    have := BitVec.msb_eq_false_iff_two_mul_lt.mp h'
    simp only [h', Bool.false_eq_true, if_false]
    split <;> omega

end Sys2Proof.Machine
end

