-- ==== Sys2Proof/Laws/Shifts.lean ====
section
/-! SUPPORT. What the shifts, the conversions and the predicates compute, as operations on 128-bit
vectors (43_shift R161 to R163, R168, R173; 48_convert_predicates R231). -/

namespace Sys2Proof.Machine

theorem shl64_eq (x : Word) (k : Nat) : shl64 x k = x <<< k := by
  unfold shl64
  split
  · next h => exact (BitVec.shiftLeft_eq_zero h).symm
  · apply BitVec.eq_of_toNat_eq
    simp [Nat.shiftLeft_eq]

theorem shr64_eq (x : Word) (k : Nat) : shr64 x k = x >>> k := by
  unfold shr64
  split
  · next h => exact (BitVec.ushiftRight_eq_zero h).symm
  · apply BitVec.eq_of_toNat_eq
    have := x.isLt
    have := Nat.div_le_self x.toNat (2 ^ k)
    simp only [BitVec.toNat_ofNat, BitVec.toNat_ushiftRight, Nat.shiftRight_eq_div_pow]
    exact Nat.mod_eq_of_lt (by omega)

theorem sar64_eq (x : Word) (k : Nat) : sar64 x k = x.sshiftRight k := by
  unfold sar64
  split
  · next h =>
    apply BitVec.eq_of_getLsbD_eq
    intro i hi
    rw [BitVec.getLsbD_sshiftRight]
    have : k + i < 64 → k + i = 63 := by omega
    have hm : x.msb = x.getLsbD 63 := by simp [BitVec.msb_eq_getLsbD_last]
    have h1 : ∀ b : Bool, (if b then MAXU64 else (0 : Word)).getLsbD i = b := by
      intro b
      cases b
      · simp
      · have : MAXU64 = BitVec.allOnes 64 := by decide
        simp only [this, if_true, BitVec.getLsbD_allOnes]
        simpa using hi
    rw [h1]
    have hi' : ¬ 64 ≤ i := by omega
    by_cases h2 : k + i < 64
    · simp [hi', this h2, hm]
    · simp [hi', h2]
  · simp [BitVec.sshiftRight, Int.shiftRight_eq_div_pow]

/-- The left shift, for every amount (R161). -/
theorem shl128_eq (x : Wide) (n : Nat) : shl128 x n = x <<< n := by
  unfold shl128
  split_ifs with h1 h2 h3
  · exact (BitVec.shiftLeft_eq_zero h1).symm
  · apply BitVec.eq_of_getLsbD_eq
    intro i hi
    rw [getLsbD_pair, shl64_eq, BitVec.getLsbD_shiftLeft]
    split
    · next h => simp; omega
    · next h =>
      rw [BitVec.getLsbD_shiftLeft, getLsbD_loWord]
      have e : i - 64 - (n - 64) = i - n := by omega
      rw [e]
      by_cases h4 : i < n
      · simp [h4]; omega
      · have a1 : ¬ i - 64 < n - 64 := by omega
        have a2 : i - n < 64 := by omega
        have a3 : i - 64 < 64 := by omega
        simp [h4, hi, a1, a2, a3]
  · simp [h3]
  · apply BitVec.eq_of_getLsbD_eq
    intro i hi
    rw [getLsbD_pair, or64, shl64_eq, shl64_eq, shr64_eq, BitVec.getLsbD_shiftLeft]
    split
    · next h =>
      have a1 : i - n < 64 := by omega
      rw [BitVec.getLsbD_shiftLeft, getLsbD_loWord, decide_eq_true h, decide_eq_true hi,
        decide_eq_true a1]
      simp
    · next h =>
      rw [BitVec.getLsbD_or, BitVec.getLsbD_shiftLeft, BitVec.getLsbD_ushiftRight, getLsbD_hiWord,
        getLsbD_loWord]
      have a3 : i - 64 < 64 := by omega
      by_cases h4 : i - 64 < n
      · have e : 64 - n + (i - 64) = i - n := by omega
        have a1 : i - n < 64 := by omega
        have a2 : ¬ i < n := by omega
        simp [h4, e, a1, a2, hi]
        exact BitVec.getLsbD_eq_getElem (by omega)
      · have e : 64 + (i - 64 - n) = i - n := by omega
        have a1 : ¬ 64 - n + (i - 64) < 64 := by omega
        have a2 : ¬ i < n := by omega
        have a4 : i - 64 - n < 64 := by omega
        simp [h4, e, a1, a2, a3, a4, hi]
        exact BitVec.getLsbD_eq_getElem (by omega)

/-- The logical right shift, for every amount (R162). -/
theorem shr128_eq (x : Wide) (n : Nat) : shr128 x n = x >>> n := by
  unfold shr128
  split_ifs with h1 h2 h3
  · exact (BitVec.ushiftRight_eq_zero h1).symm
  · apply BitVec.eq_of_getLsbD_eq
    intro i hi
    rw [getLsbD_pair, shr64_eq, BitVec.getLsbD_ushiftRight]
    split
    · next h =>
      rw [BitVec.getLsbD_ushiftRight, getLsbD_hiWord]
      have e : 64 + (n - 64 + i) = n + i := by omega
      rw [e]
      by_cases h4 : n - 64 + i < 64
      · simp [h4]
      · have : ¬ n + i < 128 := by omega
        simp [h4]
        rw [BitVec.getLsbD_of_ge]; omega
    · next h =>
      rw [BitVec.getLsbD_ushiftRight, BitVec.getLsbD_of_ge x (n + i) (by omega)]
      simp
  · simp [h3]
  · apply BitVec.eq_of_getLsbD_eq
    intro i hi
    rw [getLsbD_pair, or64, shr64_eq, shl64_eq, shr64_eq, BitVec.getLsbD_ushiftRight]
    split
    · next h =>
      rw [BitVec.getLsbD_or, BitVec.getLsbD_shiftLeft, BitVec.getLsbD_ushiftRight, getLsbD_hiWord,
        getLsbD_loWord]
      by_cases h4 : n + i < 64
      · have a1 : i < 64 - n := by omega
        simp [h4, a1]
      · have a1 : ¬ i < 64 - n := by omega
        have a2 : i - (64 - n) < 64 := by omega
        have e : 64 + (i - (64 - n)) = n + i := by omega
        simp [h4, a1, a2, e, h]
    · next h =>
      rw [BitVec.getLsbD_ushiftRight, getLsbD_hiWord]
      have e : 64 + (n + (i - 64)) = n + i := by omega
      rw [e]
      by_cases h4 : n + (i - 64) < 64
      · simp [h4]
      · simp [h4]
        rw [BitVec.getLsbD_of_ge]; omega

theorem msb_hiWord (x : Wide) : (hiWord x).msb = x.msb := by
  rw [BitVec.msb_eq_getLsbD_last, BitVec.msb_eq_getLsbD_last, getLsbD_hiWord]
  rfl

theorem getLsbD_signFill (x : Wide) (i : Nat) (hi : i < 128) : (signFill x).getLsbD i = x.msb := by
  unfold signFill
  have : ONES = BitVec.allOnes 128 := by decide
  cases h : x.msb
  · simp
  · rw [if_pos rfl, this, BitVec.getLsbD_allOnes]; simpa using hi

/-- The arithmetic right shift, for every amount (R163). -/
theorem sar128_eq (x : Wide) (n : Nat) : sar128 x n = x.sshiftRight n := by
  apply BitVec.eq_of_getLsbD_eq
  intro i hi
  have hi' : ¬ 128 ≤ i := by omega
  rw [BitVec.getLsbD_sshiftRight]
  unfold sar128
  split_ifs with h1 h4 h2 h4 h3 h4 h4
  · omega
  · rw [getLsbD_signFill x i hi]; simp [hi']
  · rw [getLsbD_pair, sar64_eq, sar64_eq, BitVec.getLsbD_sshiftRight, BitVec.getLsbD_sshiftRight,
      getLsbD_hiWord, msb_hiWord]
    have a : i < 64 := by omega
    have a1 : n - 64 + i < 64 := by omega
    have e : 64 + (n - 64 + i) = n + i := by omega
    rw [e]
    simp [a, a1, hi', Nat.not_le.mpr a]
  · rw [getLsbD_pair, sar64_eq, sar64_eq, BitVec.getLsbD_sshiftRight, BitVec.getLsbD_sshiftRight,
      getLsbD_hiWord, getLsbD_hiWord, msb_hiWord]
    split
    · next a =>
      have a1 : ¬ n - 64 + i < 64 := by omega
      simp [a1, hi', Nat.not_le.mpr a]
    · next a =>
      have a2 : i - 64 < 64 := by omega
      by_cases a3 : i = 64
      · subst a3; simp [BitVec.msb_eq_getLsbD_last]
      · have a1 : ¬ 63 + (i - 64) < 64 := by omega
        simp [a1, hi', Nat.not_le.mpr a2]
  · subst h3; simp [hi']
  · omega
  · rw [getLsbD_pair, sar64_eq, or64, shr64_eq, shl64_eq, BitVec.getLsbD_sshiftRight,
      BitVec.getLsbD_or, BitVec.getLsbD_shiftLeft, BitVec.getLsbD_ushiftRight, getLsbD_hiWord,
      getLsbD_hiWord, getLsbD_loWord, msb_hiWord]
    split
    · next a =>
      by_cases a4 : n + i < 64
      · have a1 : i < 64 - n := by omega
        simp [a4, a1, hi']
      · have a1 : ¬ i < 64 - n := by omega
        have a2 : i - (64 - n) < 64 := by omega
        have e : 64 + (i - (64 - n)) = n + i := by omega
        simp [a4, a1, a2, e, a, hi']
    · next a =>
      have a2 : i - 64 < 64 := by omega
      have a1 : n + (i - 64) < 64 := by omega
      have e : 64 + (n + (i - 64)) = n + i := by omega
      simp [a1, e, hi', Nat.not_le.mpr a2]
  · rw [getLsbD_pair, sar64_eq, BitVec.getLsbD_sshiftRight, msb_hiWord]
    have a : ¬ i < 64 := by omega
    have a2 : i - 64 < 64 := by omega
    have a1 : ¬ n + (i - 64) < 64 := by omega
    simp [a, a1, hi', Nat.not_le.mpr a2]

/-- An amount out of range is one of 128 or more (R168). -/
theorem amountOutOfRange_eq (y : Wide) : amountOutOfRange y = decide (128 ≤ y.toNat) := by
  have h1 := toNat_hiWord y
  have h2 := toNat_loWord y
  have h3 := y.isLt
  have h0 : (hiWord y = 0) ↔ (hiWord y).toNat = 0 := by
    rw [← BitVec.toNat_inj]; simp
  rw [Bool.eq_iff_iff]
  simp only [amountOutOfRange, eq64, Bool.or_eq_true, Bool.not_eq_true', decide_eq_false_iff_not,
    decide_eq_true_eq, h0, h1, h2]
  omega

/-- The logical right shift by a 128-bit amount (R168). -/
theorem shrByValue_eq (x y : Wide) : shrByValue x y = x >>> y.toNat := by
  unfold shrByValue
  rw [amountOutOfRange_eq, shr128_eq]
  split
  · next h => exact (BitVec.ushiftRight_eq_zero (of_decide_eq_true h)).symm
  · next h =>
    have : (loWord y).toNat = y.toNat := by
      rw [toNat_loWord]; simp at h; omega
    rw [this]

/-- The arithmetic right shift by a 128-bit amount, in the spec's reading (R173). -/
theorem sarByValue_sign_eq (x y : Wide) : sarByValue .sign x y = x.sshiftRight y.toNat := by
  unfold sarByValue
  rw [amountOutOfRange_eq]
  split
  · next h =>
    have h' := of_decide_eq_true h
    rw [← sar128_eq, sar128, if_pos h']
  · next h =>
    have : (loWord y).toNat = y.toNat := by
      rw [toNat_loWord]; simp at h; omega
    rw [sar128_eq, this]

/-- Zero extension (R231). -/
theorem widenU_eq (w : Word) : widenU w = w.setWidth 128 := by
  apply BitVec.eq_of_toNat_eq
  have := w.isLt
  rw [widenU, toNat_pair]
  simp
  omega

/-- Sign extension (R231). -/
theorem toInt_widenS (w : Word) : (widenS w).toInt = w.toInt := by
  have := w.isLt
  rw [toInt_eq_words, widenS, hiWord_pair, loWord_pair, sar64_eq, BitVec.toInt_sshiftRight,
    Int.shiftRight_eq_div_pow, BitVec.toInt_eq_toNat_cond]
  split <;> omega

end Sys2Proof.Machine
end

