-- ==== Sys2Proof/Laws/Units.lean ====
section
/-! SUPPORT. What each block computes, whatever its working registers held before (44_multiply R181,
45_bitlength R190, 46_divide_unsigned R205, R206, 47_divide_signed R220). -/

namespace Sys2Proof.Machine

/-! ### The multiplier -/

/-- The part of the product that bits `i` to `i + k - 1` of `y` contribute. -/
def mulPart (x y : Wide) (i k : Nat) : Wide :=
  x * BitVec.ofNat 128 (y.toNat / 2 ^ i % 2 ^ k * 2 ^ i)

theorem mulPart_add (x y : Wide) (i j k : Nat) :
    mulPart x y i j + mulPart x y (i + j) k = mulPart x y i (j + k) := by
  have e : y.toNat / 2 ^ i % 2 ^ (j + k) * 2 ^ i =
      y.toNat / 2 ^ i % 2 ^ j * 2 ^ i + y.toNat / 2 ^ (i + j) % 2 ^ k * 2 ^ (i + j) := by
    rw [pow_add 2 j k, Nat.mod_mul, Nat.div_div_eq_div_mul, ← pow_add]
    ring
  rw [mulPart, mulPart, mulPart, e, BitVec.ofNat_add, BitVec.mul_add]

theorem partialProduct_eq (x y : Wide) (i : Nat) : partialProduct x y i = mulPart x y i 1 := by
  have hb : y.toNat / 2 ^ i % 2 = (y.getLsbD i).toNat := by
    rw [BitVec.getLsbD, Nat.toNat_testBit]
  rw [partialProduct, mulPart, shl128_eq, pow_one, hb]
  cases y.getLsbD i
  · simp
  · rw [if_pos rfl, BitVec.shiftLeft_eq_mul_twoPow, BitVec.twoPow_eq, Bool.toNat_true, Nat.one_mul]
    congr 1
    apply BitVec.eq_of_toNat_eq
    rw [BitVec.toNat_shiftLeft, BitVec.toNat_ofNat, BitVec.toNat_ofNat, Nat.shiftLeft_eq,
      Nat.one_mod_two_pow (by omega : 0 < 128), Nat.one_mul]

theorem mulStep_ACC (x y : Wide) (r : MulRegs) :
    (mulStep x y r).ACC = r.ACC + mulPart x y r.I.toNat 1 := by
  rw [← partialProduct_eq, partialProduct, mulStep]
  simp only [add128_eq]
  split <;> simp

theorem mulLoop_ACC (x y : Wide) : ∀ (k i : Nat) (r : MulRegs), i + k ≤ 128 →
    (k ≠ 0 → r.I.toNat = i) → (mulLoop k x y r).ACC = r.ACC + mulPart x y i k := by
  intro k
  induction k with
  | zero => intro i r _ _; simp [mulLoop, mulPart, Nat.mod_one]
  | succ k ih =>
    intro i r hk hi
    have hI := hi (by omega)
    have hnext : k ≠ 0 → (mulStep x y r).I.toNat = i + 1 := by
      intro hk0
      simp only [mulStep, BitVec.toNat_add, hI]
      have : (1 : BitVec 7).toNat = 1 := rfl
      omega
    rw [mulLoop, ih (i + 1) (mulStep x y r) (by omega) hnext, mulStep_ACC, hI, BitVec.add_assoc,
      mulPart_add, Nat.add_comm 1 k]

theorem mulPart_all (x y : Wide) : mulPart x y 0 128 = x * y := by
  simp [mulPart, Nat.mod_eq_of_lt y.isLt]

theorem mulTree_eq (x y : Wide) : ∀ k i, mulTree x y k i = mulPart x y i (2 ^ k) := by
  intro k
  induction k with
  | zero => intro i; exact partialProduct_eq x y i
  | succ k ih => intro i; rw [mulTree, ih, ih, add128_eq, mulPart_add, pow_succ, Nat.mul_two]

/-- The multiplier multiplies modulo 2^128 in either structure (R181). -/
theorem mulUnit_value (m : Config.MulStructure) (x y : Wide) (w : Work) :
    (mulUnit m x y w).1 = x * y := by
  cases m with
  | serial =>
    change (mulLoop 128 x y (mulLoad w.mul)).ACC = x * y
    rw [mulLoop_ACC x y 128 0 _ (by omega) (fun _ => rfl), mulPart_all]
    simp [mulLoad]
  | tree =>
    change mulTree x y 7 0 = x * y
    rw [mulTree_eq, ← mulPart_all]
    rfl

/-! ### The bit-length search -/

theorem size_div_pow {v k : Nat} (h : 2 ^ k ≤ v) : Nat.size (v / 2 ^ k) + k = Nat.size v := by
  have hp : 0 < 2 ^ k := Nat.two_pow_pos k
  have hk : k < Nat.size v := Nat.lt_size.mpr h
  apply Nat.le_antisymm
  · have : Nat.size (v / 2 ^ k) ≤ Nat.size v - k := by
      rw [Nat.size_le, Nat.div_lt_iff_lt_mul hp, ← pow_add, Nat.sub_add_cancel hk.le]
      exact Nat.lt_size_self v
    omega
  · by_contra hc
    have h1 : Nat.size (v / 2 ^ k) ≤ Nat.size v - k - 1 := by omega
    rw [Nat.size_le, Nat.div_lt_iff_lt_mul hp, ← pow_add, ← Nat.size_le] at h1
    omega

/-- Each entry of the table is the bit length of its index (R41, R191). -/
theorem lut8_eq_size : ∀ i : BitVec 8, (lut8 i).toNat = Nat.size i.toNat := by
  have h : ∀ i : BitVec 8, i.toNat < 2 ^ (lut8 i).toNat ∧
      (lut8 i).toNat ≤ 8 ∧ ((lut8 i).toNat ≠ 0 → 2 ^ ((lut8 i).toNat - 1) ≤ i.toNat) := by
    decide +kernel
  intro i
  obtain ⟨h1, _, h3⟩ := h i
  apply Nat.le_antisymm
  · by_contra hc
    have h4 := h3 (by omega)
    rw [← Nat.lt_size] at h4
    omega
  · exact Nat.size_le.mpr h1

theorem lenLevel_spec (k m : Nat) (r : LenRegs) (hm : r.X.toNat < 2 ^ m) (hmk : m ≤ 2 * k)
    (hc : r.CNTB.toNat + k < 64) :
    (lenLevel k r).CNTB.toNat + Nat.size (lenLevel k r).X.toNat =
      r.CNTB.toNat + Nat.size r.X.toNat ∧
    (lenLevel k r).X.toNat < 2 ^ k ∧ (lenLevel k r).CNTB.toNat ≤ r.CNTB.toNat + k := by
  unfold lenLevel
  split
  · next h =>
    have hX : (shr64 r.X k).toNat = r.X.toNat / 2 ^ k := by
      rw [shr64_eq]; simp [Nat.shiftRight_eq_div_pow]
    have hC : (r.CNTB + BitVec.ofNat 6 k).toNat = r.CNTB.toNat + k := by
      simp only [BitVec.toNat_add, BitVec.toNat_ofNat]; omega
    have hs := size_div_pow h
    refine ⟨?_, ?_, ?_⟩
    · simp only [hX, hC]; omega
    · simp only [hX]
      rw [Nat.div_lt_iff_lt_mul (Nat.two_pow_pos k), ← pow_add]
      exact lt_of_lt_of_le hm (Nat.pow_le_pow_right (by omega) (by omega))
    · simp only [hC]; omega
  · next h => exact ⟨rfl, by omega, by omega⟩

/-- The search finds the bit length (R190, R191). -/
theorem bitlen64Unit_value (x : Word) (w : Work) : (bitlen64Unit x w).1 = Nat.size x.toNat := by
  change lenResult (lenRun x w.len) = _
  obtain ⟨a1, a2, a3⟩ := lenLevel_spec 32 64 (lenLoad x w.len) x.isLt (by omega)
    (by simp [lenLoad])
  have c0 : (lenLoad x w.len).CNTB.toNat = 0 := rfl
  obtain ⟨b1, b2, b3⟩ := lenLevel_spec 16 32 _ a2 (by omega) (by omega)
  obtain ⟨d1, d2, d3⟩ := lenLevel_spec 8 16 _ b2 (by omega) (by omega)
  have hx : (lenLoad x w.len).X = x := rfl
  rw [hx] at a1
  have e : ((lenRun x w.len).X.extractLsb' 0 8).toNat = (lenRun x w.len).X.toNat := by
    simp only [BitVec.extractLsb'_toNat, Nat.shiftRight_zero]
    exact Nat.mod_eq_of_lt d2
  rw [lenResult, lut8_eq_size, e]
  have f : lenRun x w.len = lenLevel 8 (lenLevel 16 (lenLevel 32 (lenLoad x w.len))) := rfl
  rw [f]
  omega

theorem eq64_zero_iff (x : Word) : eq64 x 0 = true ↔ x.toNat = 0 := by
  rw [eq64, decide_eq_true_eq, ← BitVec.toNat_inj]
  simp

/-- The 128-bit wrapper finds the bit length (R192). -/
theorem bitlen128Unit_value (x : Wide) (w : Work) : (bitlen128Unit x w).1 = Nat.size x.toNat := by
  have hx := toNat_eq_words x
  have hl := (loWord x).isLt
  unfold bitlen128Unit
  split
  · next h =>
    rw [eq64_zero_iff] at h
    rw [bitlen64Unit_value]
    congr 1
    omega
  · next h =>
    rw [eq64_zero_iff] at h
    have hle : 2 ^ 64 ≤ x.toNat := by omega
    rw [bitlen64Unit_value, toNat_hiWord, ← size_div_pow hle]
    omega

/-! ### The divider -/

/-- One iteration of the loop in numbers, for a divisor `D` aligned `c` bits up (R205). -/
theorem divStep_spec (r : DivRegs) (D c : Nat) (hDV : r.DV.toNat = D * 2 ^ c)
    (hQ : (2 * r.Q.toNat + 2) * 2 ^ c ≤ 2 ^ 128) :
    (divStep r).Q.toNat = 2 * r.Q.toNat + (if D * 2 ^ c ≤ r.REM.toNat then 1 else 0) ∧
    (divStep r).REM.toNat = r.REM.toNat - (if D * 2 ^ c ≤ r.REM.toNat then D * 2 ^ c else 0) ∧
    (divStep r).DV.toNat = D * 2 ^ c / 2 := by
  have h2 : 2 * r.Q.toNat + 2 ≤ 2 ^ 128 :=
    le_trans (Nat.le_mul_of_pos_right _ (Nat.two_pow_pos c)) hQ
  have hR := r.REM.isLt
  have hD := r.DV.isLt
  have htake : divTakes r = decide (D * 2 ^ c ≤ r.REM.toNat) := by
    rw [divTakes, cmpu128_eq, hDV, decide_eq_decide]
    split_ifs <;> simp <;> omega
  have hsh : (shl128 r.Q 1).toNat = 2 * r.Q.toNat := by
    rw [shl128_eq]
    simp only [BitVec.toNat_shiftLeft, Nat.shiftLeft_eq]
    omega
  have hor : (or128 (shl128 r.Q 1) ONE).toNat = 2 * r.Q.toNat + 1 := by
    rw [or128_eq, BitVec.toNat_or, hsh]
    have := Nat.shiftLeft_add_eq_or_of_lt (a := 1) (b := 1) (i := 1) (by omega)
    have h3 := Nat.two_pow_add_eq_or_of_lt (b := 1) (i := 1) (by omega) r.Q.toNat
    simpa using h3.symm
  have hdv : (shr128 r.DV 1).toNat = D * 2 ^ c / 2 := by
    rw [shr128_eq]
    simp [Nat.shiftRight_eq_div_pow, hDV]
  refine ⟨?_, ?_, hdv⟩
  · simp only [divStep, htake, decide_eq_true_eq]
    split
    · exact hor
    · exact hsh
  · simp only [divStep, htake, decide_eq_true_eq, sub128_eq]
    split
    · rw [BitVec.toNat_sub, hDV]; omega
    · omega

/-- The loop's invariant carried to its end (R205): `c` iterations are left. -/
theorem divLoop_spec (D : Nat) (hD : 0 < D) : ∀ (fuel c : Nat) (r : DivRegs),
    r.CNT.toNat = c → c ≤ fuel → (c ≠ 0 → r.DV.toNat = D * 2 ^ (c - 1)) →
    r.REM.toNat < D * 2 ^ c → (r.Q.toNat + 1) * 2 ^ c ≤ 2 ^ 128 →
    (divLoop fuel r).Q.toNat = r.Q.toNat * 2 ^ c + r.REM.toNat / D ∧
    (divLoop fuel r).REM.toNat = r.REM.toNat % D := by
  intro fuel
  induction fuel with
  | zero =>
    intro c r _ hc _ hrem _
    have : c = 0 := by omega
    subst this
    simp only [pow_zero, Nat.mul_one] at hrem
    simp [divLoop, Nat.div_eq_of_lt hrem, Nat.mod_eq_of_lt hrem]
  | succ fuel ih =>
    intro c r hcnt hc hdv hrem hq
    by_cases h0 : c = 0
    · subst h0
      have : r.CNT = 0 := by rw [← BitVec.toNat_inj]; simpa using hcnt
      simp only [pow_zero, Nat.mul_one] at hrem
      simp [divLoop, this, Nat.div_eq_of_lt hrem, Nat.mod_eq_of_lt hrem]
    · obtain ⟨e, rfl⟩ : ∃ e, c = e + 1 := ⟨c - 1, by omega⟩
      have hne : ¬ r.CNT = 0 := by
        intro h
        rw [h] at hcnt
        simp at hcnt
      have hDV : r.DV.toNat = D * 2 ^ e := hdv (by omega)
      have hQ : (2 * r.Q.toNat + 2) * 2 ^ e ≤ 2 ^ 128 := by
        calc (2 * r.Q.toNat + 2) * 2 ^ e = (r.Q.toNat + 1) * 2 ^ (e + 1) := by ring
          _ ≤ 2 ^ 128 := hq
      obtain ⟨s1, s2, s3⟩ := divStep_spec r D e hDV hQ
      have scnt : (divStep r).CNT.toNat = e := by
        have := r.CNT.isLt
        have h1 : (1 : BitVec 8).toNat = 1 := rfl
        simp only [divStep, BitVec.toNat_sub, hcnt, h1]
        omega
      have hp : D * 2 ^ (e + 1) = D * 2 ^ e + D * 2 ^ e := by ring
      have sdv : e ≠ 0 → (divStep r).DV.toNat = D * 2 ^ (e - 1) := by
        intro he
        obtain ⟨f, rfl⟩ : ∃ f, e = f + 1 := ⟨e - 1, by omega⟩
        rw [s3, pow_succ, ← Nat.mul_assoc, Nat.mul_div_cancel _ (by omega : 0 < 2)]
        rfl
      have srem : (divStep r).REM.toNat < D * 2 ^ e := by
        rw [s2]; split <;> omega
      have sq : ((divStep r).Q.toNat + 1) * 2 ^ e ≤ 2 ^ 128 := by
        refine le_trans (Nat.mul_le_mul_right _ ?_) hQ
        rw [s1]; split <;> omega
      obtain ⟨i1, i2⟩ := ih e (divStep r) scnt (by omega) sdv srem sq
      rw [divLoop, if_neg hne, i1, i2, s1, s2]
      split
      · next ht =>
        obtain ⟨m, hm⟩ : ∃ m, r.REM.toNat = m + D * 2 ^ e := ⟨r.REM.toNat - D * 2 ^ e, by omega⟩
        rw [hm, Nat.add_sub_cancel, Nat.add_mul_div_left _ _ hD, Nat.add_mul_mod_self_left]
        exact ⟨by ring, rfl⟩
      · exact ⟨by rw [Nat.sub_zero]; ring, by rw [Nat.sub_zero]⟩

/-- The loop divides, for a nonzero divisor no longer than the dividend (R204, R206). -/
theorem divRun_spec (x d : Wide) (r : DivRegs) (hd : d ≠ 0)
    (hn : Nat.size d.toNat ≤ Nat.size x.toNat) :
    (divRun x d (Nat.size x.toNat - Nat.size d.toNat) r).Q = x / d ∧
    (divRun x d (Nat.size x.toNat - Nat.size d.toNat) r).REM = x % d := by
  have hd0 : 0 < d.toNat := by
    rw [Nat.pos_iff_ne_zero]; intro h; exact hd (by rw [← BitVec.toNat_inj]; simpa using h)
  have hs1 : 0 < Nat.size d.toNat := Nat.size_pos.mpr hd0
  have hsx : Nat.size x.toNat ≤ 128 := Nat.size_le.mpr x.isLt
  obtain ⟨n, hnn⟩ : ∃ n, n = Nat.size x.toNat - Nat.size d.toNat := ⟨_, rfl⟩
  rw [← hnn]
  have hlow : 2 ^ (Nat.size d.toNat - 1) ≤ d.toNat := Nat.lt_size.mp (by omega)
  have hx : x.toNat < d.toNat * 2 ^ (n + 1) := by
    refine lt_of_lt_of_le (Nat.lt_size_self x.toNat) ?_
    refine le_trans ?_ (Nat.mul_le_mul_right _ hlow)
    rw [← pow_add]
    exact Nat.pow_le_pow_right (by omega) (by omega)
  have hdv : d.toNat * 2 ^ n < 2 ^ 128 := by
    refine lt_of_lt_of_le (Nat.mul_lt_mul_of_pos_right (Nat.lt_size_self d.toNat)
      (Nat.two_pow_pos n)) ?_
    rw [← pow_add]
    exact Nat.pow_le_pow_right (by omega) (by omega)
  have hDV : (divLoad x d n r).DV.toNat = d.toNat * 2 ^ n := by
    simp only [divLoad, shl128_eq, BitVec.toNat_shiftLeft, Nat.shiftLeft_eq]
    exact Nat.mod_eq_of_lt hdv
  have hC : (divLoad x d n r).CNT.toNat = n + 1 := by
    simp only [divLoad, BitVec.toNat_ofNat]; omega
  have hQ0 : (divLoad x d n r).Q.toNat = 0 := rfl
  have hR0 : (divLoad x d n r).REM = x := rfl
  obtain ⟨q, m⟩ := divLoop_spec d.toNat hd0 128 (n + 1) (divLoad x d n r) hC (by omega)
    (fun _ => hDV) (by rw [hR0]; exact hx)
    (by rw [hQ0, Nat.zero_add, Nat.one_mul]; exact Nat.pow_le_pow_right (by omega) (by omega))
  rw [hQ0, hR0] at q
  rw [hR0] at m
  constructor
  · apply BitVec.eq_of_toNat_eq
    rw [divRun, q, BitVec.toNat_udiv]
    omega
  · apply BitVec.eq_of_toNat_eq
    rw [divRun, m, BitVec.toNat_umod]

theorem isZero128_eq (d : Wide) : isZero128 d = decide (d = 0) := by
  have h := toNat_eq_words d
  rw [Bool.eq_iff_iff, isZero128, Bool.and_eq_true, eq64_zero_iff, eq64_zero_iff,
    decide_eq_true_eq, ← BitVec.toNat_inj]
  have : (0 : Wide).toNat = 0 := rfl
  omega

theorem div_of_lt {x d : Wide} (h : x.toNat < d.toNat) : x / d = 0 ∧ x % d = x := by
  constructor <;> apply BitVec.eq_of_toNat_eq
  · rw [BitVec.toNat_udiv, Nat.div_eq_of_lt h]; rfl
  · rw [BitVec.toNat_umod, Nat.mod_eq_of_lt h]

/-- `longdiv` divides (R204). -/
theorem longdivUnit_value (x d : Wide) (w : Work) (hd : d ≠ 0) :
    (longdivUnit x d w).1 = (x / d, x % d) := by
  simp only [longdivUnit, bitlen128Unit_value]
  split
  · next h =>
    have hlt : x.toNat < d.toNat := by
      refine lt_of_lt_of_le (Nat.lt_size_self x.toNat) ?_
      exact Nat.lt_size.mp h
    obtain ⟨a, b⟩ := div_of_lt hlt
    rw [a, b]
    rfl
  · next h =>
    obtain ⟨a, b⟩ := divRun_spec x d _ hd (not_lt.mp h)
    rw [a, b]

/-- The cascade divides, with and without the fast paths, in either multiplier structure; a zero
divisor raises (R201, R206, R207). -/
theorem udivmodUnit_value (fast : Bool) (m : Config.MulStructure) (x d : Wide) (w : Work) :
    (udivmodUnit fast m x d w).map (·.1) = if d = 0 then none else some (x / d, x % d) := by
  have hx := toNat_eq_words x
  have hD := toNat_eq_words d
  have lx := (loWord x).isLt
  have ld := (loWord d).isLt
  unfold udivmodUnit
  rw [isZero128_eq]
  by_cases hd : d = 0
  · simp [hd]
  have hd0 : d.toNat ≠ 0 := by
    intro h; exact hd (BitVec.eq_of_toNat_eq h)
  have z : (0 : Word).toNat = 0 := rfl
  simp only [hd, decide_false, Bool.false_eq_true, if_false]
  split_ifs with h1 h2 h3 h4
  · have hlt : x.toNat < d.toNat := by
      simp only [cmpu128_eq, Bool.and_eq_true, decide_eq_true_eq] at h1
      by_contra hc
      rw [if_neg hc] at h1
      split at h1 <;> simp at h1
    obtain ⟨a, b⟩ := div_of_lt hlt
    simp [a, b]
  · have hge : ¬ x.toNat < d.toNat := by
      intro hlt
      apply h1
      simp [cmpu128_eq, hlt]
      simp only [Bool.and_eq_true] at h2
      exact h2.1
    have hbig : 2 ^ 63 ≤ (hiWord d).toNat := by
      simp only [ltu64, Bool.and_eq_true, decide_eq_true_eq] at h2
      have : MAXINT64.toNat = 2 ^ 63 - 1 := by decide
      omega
    have hxl := x.isLt
    have hq : x.toNat / d.toNat = 1 := by
      apply Nat.div_eq_of_lt_le <;> omega
    have hmod := Nat.div_add_mod x.toNat d.toNat
    rw [hq] at hmod
    simp only [Option.map_some, Option.some.injEq, Prod.mk.injEq]
    constructor <;> apply BitVec.eq_of_toNat_eq
    · rw [BitVec.toNat_udiv, hq]; rfl
    · rw [sub128_eq, BitVec.toNat_sub, BitVec.toNat_umod]; omega
  · simp only [Bool.and_eq_true, eq64_zero_iff] at h3
    obtain ⟨-, hxh, hdh⟩ := h3
    have ex : x.toNat = (loWord x).toNat := by rw [hx, hxh, Nat.zero_mul, Nat.zero_add]
    have ed : d.toNat = (loWord d).toNat := by rw [hD, hdh, Nat.zero_mul, Nat.zero_add]
    have hlo : ¬ loWord d = 0 := fun h => hd0 (by rw [ed, h]; rfl)
    simp only [Option.map_some, Option.some.injEq, Prod.mk.injEq, udiv64, umod64, hlo, if_false]
    constructor <;> apply BitVec.eq_of_toNat_eq
    · rw [toNat_pair, BitVec.toNat_udiv, ex, ed, z, Nat.zero_mul, Nat.zero_add, BitVec.toNat_ofNat,
        Nat.mod_eq_of_lt (lt_of_le_of_lt (Nat.div_le_self _ _) lx)]
    · rw [toNat_pair, BitVec.toNat_umod, ex, ed, z, Nat.zero_mul, Nat.zero_add, BitVec.toNat_ofNat,
        Nat.mod_eq_of_lt (lt_of_le_of_lt (Nat.mod_le _ _) lx)]
  · simp only [Bool.and_eq_true, eq64_zero_iff] at h4
    obtain ⟨-, hxl, hdl⟩ := h4
    have ex : x.toNat = (hiWord x).toNat * 2 ^ 64 := by rw [hx, hxl, Nat.add_zero]
    have ed : d.toNat = (hiWord d).toNat * 2 ^ 64 := by rw [hD, hdl, Nat.add_zero]
    have hhi : ¬ hiWord d = 0 := fun h => hd0 (by rw [ed, h]; rfl)
    have eq : pair 0 (udiv64 (hiWord x) (hiWord d)) = x / d := by
      apply BitVec.eq_of_toNat_eq
      rw [toNat_pair, BitVec.toNat_udiv, ex, ed, Nat.mul_div_mul_right _ _ (Nat.two_pow_pos 64),
        udiv64, if_neg hhi, z, Nat.zero_mul, Nat.zero_add, BitVec.toNat_ofNat,
        Nat.mod_eq_of_lt (lt_of_le_of_lt (Nat.div_le_self _ _) (hiWord x).isLt)]
    simp only [Option.map_some, Option.some.injEq, Prod.mk.injEq, mulUnit_value, eq, true_and,
      sub128_eq]
    have hdm : d * (x / d) + x % d = x := by
      apply BitVec.eq_of_toNat_eq
      have h1 := Nat.div_add_mod x.toNat d.toNat
      have h2 : (d.toNat * (x.toNat / d.toNat)) < 2 ^ 128 :=
        lt_of_le_of_lt (Nat.mul_div_le _ _) x.isLt
      rw [BitVec.toNat_add, BitVec.toNat_mul, BitVec.toNat_udiv, BitVec.toNat_umod,
        Nat.mod_eq_of_lt h2, h1, Nat.mod_eq_of_lt x.isLt]
    rw [sub_eq_iff_eq_add, BitVec.add_comm]
    exact hdm.symm
  · simp only [Option.map_some, longdivUnit_value x d w hd]

/-- What the cascade does with the registers is no part of its result. -/
theorem udivmodUnit_cases (fast : Bool) (m : Config.MulStructure) (x d : Wide) (w : Work) :
    (d = ZERO ∧ udivmodUnit fast m x d w = none) ∨
    (d ≠ ZERO ∧ ∃ w', udivmodUnit fast m x d w = some ((x / d, x % d), w')) := by
  have h := udivmodUnit_value fast m x d w
  by_cases hd : d = 0
  · rw [if_pos hd] at h
    exact .inl ⟨hd, by simpa using h⟩
  · rw [if_neg hd] at h
    obtain ⟨p, hp, hv⟩ := Option.map_eq_some_iff.mp h
    exact .inr ⟨hd, p.2, by rw [hp, ← hv]⟩

/-! ### The signed wrapper -/

/-- The unsigned engine leaves the sign flags as it finds them. -/
theorem udivmodUnit_sgn (fast : Bool) (m : Config.MulStructure) (x d : Wide) (w w' : Work)
    (v : Wide × Wide) (h : udivmodUnit fast m x d w = some (v, w')) : w'.sgn = w.sgn := by
  have hb : ∀ (y : Word) (u : Work), (bitlen64Unit y u).2.sgn = u.sgn := fun _ _ => rfl
  have hB : ∀ (y : Wide) (u : Work), (bitlen128Unit y u).2.sgn = u.sgn := by
    intro y u; unfold bitlen128Unit; split <;> exact hb _ _
  have hl : (longdivUnit x d w).2.sgn = w.sgn := by
    unfold longdivUnit
    simp only
    split <;> simp only [hB]
  unfold udivmodUnit at h
  split_ifs at h <;> simp only [Option.some.injEq, Prod.mk.injEq] at h <;>
    first
      | exact h.2 ▸ rfl
      | (rw [← hl, h])

theorem msb_neg128_cases (x d : Wide) :
    negateIf (x.msb != d.msb) ((if x.msb then neg128 x else x) / (if d.msb then neg128 d else d)) =
      x.sdiv d ∧
    negateIf x.msb ((if x.msb then neg128 x else x) % (if d.msb then neg128 d else d)) =
      x.srem d := by
  simp only [neg128_eq, negateIf, BitVec.sdiv, BitVec.srem]
  cases x.msb <;> cases d.msb <;> simp

theorem signs_differ (a b : Bool) :
    decide ((if a then Sign.negative else Sign.positive) ≠
      (if b then Sign.negative else Sign.positive)) = (a != b) := by
  cases a <;> cases b <;> rfl

theorem sign_negative (a : Bool) :
    decide ((if a then Sign.negative else Sign.positive) = Sign.negative) = a := by
  cases a <;> rfl

theorem quotientNegated_signLoad (x d : Wide) (g : SignRegs) :
    quotientNegated (signLoad x d g) = (x.msb != d.msb) := signs_differ _ _

theorem remainderNegated_signLoad (x d : Wide) (g : SignRegs) :
    remainderNegated (signLoad x d g) = x.msb := sign_negative _

theorem signLoad_dm_eq_zero (x d : Wide) (g : SignRegs) : (signLoad x d g).dm = ZERO ↔ d = ZERO := by
  simp only [signLoad, neg128_eq]
  split
  · exact neg_eq_zero
  · rfl

/-- The signed block divides by truncation (R220, R221). -/
theorem sdivmodUnit_value (fast : Bool) (m : Config.MulStructure) (x d : Wide) (w : Work) :
    (sdivmodUnit fast m x d w).map (·.1) =
      if d = ZERO then none else some (x.sdiv d, x.srem d) := by
  have hs := udivmodUnit_sgn fast m (signLoad x d w.sgn).xm (signLoad x d w.sgn).dm
    { w with sgn := signLoad x d w.sgn }
  have hv := udivmodUnit_cases fast m (signLoad x d w.sgn).xm (signLoad x d w.sgn).dm
    { w with sgn := signLoad x d w.sgn }
  unfold sdivmodUnit
  simp only
  generalize udivmodUnit fast m (signLoad x d w.sgn).xm (signLoad x d w.sgn).dm
    { w with sgn := signLoad x d w.sgn } = o at hs hv ⊢
  rw [signLoad_dm_eq_zero] at hv
  rcases hv with ⟨h0, rfl⟩ | ⟨h0, w', rfl⟩
  · rw [if_pos h0]
    rfl
  · rw [Ne, signLoad_dm_eq_zero] at h0
    rw [if_neg h0, Option.map_some, hs _ _ rfl, quotientNegated_signLoad,
      remainderNegated_signLoad, ← (msb_neg128_cases x d).1, ← (msb_neg128_cases x d).2]
    rfl

theorem sdivmodUnit_cases (fast : Bool) (m : Config.MulStructure) (x d : Wide) (w : Work) :
    (d = ZERO ∧ sdivmodUnit fast m x d w = none) ∨
    (d ≠ ZERO ∧ ∃ w', sdivmodUnit fast m x d w = some ((x.sdiv d, x.srem d), w')) := by
  have h := sdivmodUnit_value fast m x d w
  by_cases hd : d = ZERO
  · rw [if_pos hd] at h
    exact .inl ⟨hd, by simpa using h⟩
  · rw [if_neg hd] at h
    obtain ⟨p, hp, hv⟩ := Option.map_eq_some_iff.mp h
    exact .inr ⟨hd, p.2, by rw [hp, ← hv]⟩

end Sys2Proof.Machine
end

