-- ==== Sys2Proof/Laws/Handshake.lean ====
section
/-! SUPPORT. What it takes to answer, for each shared operation, and what a transaction of a ready core
is, so that no proof unfolds `step` (70_reset_and_hazards R333 to R335). -/

namespace Sys2Proof.Machine

/-! ### Answering -/

/-- An instruction that is one `answer` answers. -/
theorem answers_of_answer {i : Instr} {s s' : State} {r : Response} (h : exec i s = .next (s'.answer r))
    (hr : s'.req = s.req) (hi : s'.inputs = s.inputs) : Answers i s r :=
  ⟨_, h, rfl, rfl, rfl, hr, hi⟩

/-- A result on `Z`. -/
theorem answers_answerZ {i : Instr} {s : State} {z : Wide} (h : exec i s = s.answerZ z) :
    Answers i s { Z := z } := answers_of_answer (s' := s) h rfl rfl

/-- A result on `S`. -/
theorem answers_answerS {i : Instr} {s : State} {v : Word} (h : exec i s = s.answerS v) :
    Answers i s { S := v } := answers_of_answer (s' := s) h rfl rfl

/-- A product. -/
theorem answers_multiply {i : Instr} {s : State} {x y : Wide} (h : exec i s = s.multiply x y) :
    Answers i s { Z := x * y } := by
  rw [State.multiply_eq, mulUnit_value] at h
  exact answers_of_answer h rfl rfl

/-- A bit length. -/
theorem answers_answerLength {i : Instr} {s : State} {found : Nat × Work}
    (h : exec i s = s.answerLength found) : Answers i s { S := lengthS found.1 } := by
  rw [State.answerLength_eq] at h
  exact answers_of_answer h rfl rfl

/-- An unsigned division: the exception, or the quotient and remainder in the form asked for. -/
theorem answers_divideUnsigned {i : Instr} {s : State} {form : Wide → Wide → Response} {x d : Wide}
    (h : exec i s = s.divideUnsigned form x d) :
    Answers i s (if d = ZERO then { ERR := 1 } else form (x / d) (x % d)) := by
  rw [State.divideUnsigned, State.answerDivision_eq] at h
  rcases udivmodUnit_cases Config.divFastPaths Config.mulStructure x d s.work with
    ⟨h0, e⟩ | ⟨h0, w', e⟩
  · rw [e] at h
    rw [if_pos h0]
    exact answers_of_answer h rfl rfl
  · rw [e] at h
    rw [if_neg h0]
    exact answers_of_answer h rfl rfl

/-- A signed division, likewise. -/
theorem answers_divideSigned {i : Instr} {s : State} {form : Wide → Wide → Response} {x d : Wide}
    (h : exec i s = s.divideSigned form x d) :
    Answers i s (if d = ZERO then { ERR := 1 } else form (x.sdiv d) (x.srem d)) := by
  rw [State.divideSigned, State.answerDivision_eq] at h
  rcases sdivmodUnit_cases Config.divFastPaths Config.mulStructure x d s.work with
    ⟨h0, e⟩ | ⟨h0, w', e⟩
  · rw [e] at h
    rw [if_pos h0]
    exact answers_of_answer h rfl rfl
  · rw [e] at h
    rw [if_neg h0]
    exact answers_of_answer h rfl rfl

/-- An instruction answers one way only. -/
theorem Answers.unique {i : Instr} {s : State} {r r' : Response} (h : Answers i s r)
    (h' : Answers i s r') : r = r' := by
  obtain ⟨t, e, -, hr, -⟩ := h
  obtain ⟨t', e', -, hr', -⟩ := h'
  rw [e] at e'
  cases e'
  rw [← hr, hr']

/-! ### Transactions of a ready core -/

/-- A ready core takes a request that decodes, whatever the host does after it (R333). -/
theorem step_request {s : State} {q : Request} {i : Instr} (rest : List HostInput)
    (hs : s.reqReady = true) (hq : decodeRequest q = .ok i) :
    step { s with inputs := .request (requestWord q) :: rest } =
      .next ({ s with inputs := rest }.transfer q) := by
  simp [step, resetNext, hs, State.takeInput, State.accept, decode_requestWord, hq,
    requestOfWord_requestWord]

/-- A busy core with no `RST` pending runs its sampled request (R334, R335). -/
theorem step_busy {s : State} {i : Instr} (hs : s.reqReady = false) (hr : resetNext s.inputs = none)
    (hq : decodeRequest s.req = .ok i) : step s = exec i s := by
  simp [step, hr, hs, State.complete, State.sampled, hq]

/-- A ready core in a quiet moment, or when the host presents nothing, withdraws its response (log 4). -/
theorem step_quiet {s : State} (k : Nat) (hs : s.reqReady = true)
    (hi : s.inputs = List.replicate k .quiet) :
    step s = .next ({ s with inputs := List.replicate (k - 1) .quiet }.withdraw) := by
  cases k with
  | zero =>
    have h : s.inputs = [] := hi
    simp [step, h, resetNext, hs, State.takeInput, State.idle, State.withdraw]
  | succ k =>
    rw [List.replicate_succ] at hi
    simp [step, hi, resetNext, hs, State.takeInput, State.idle]

/-- A request that decodes is transferred, then run. -/
theorem State.transact_ok {s : State} {q : Request} {i : Instr} (hs : s.reqReady = true)
    (hq : decodeRequest q = .ok i) :
    s.transact q = exec i ({ s with inputs := [] }.transfer q) := by
  rw [State.transact, step_request [] hs hq]
  exact step_busy rfl rfl hq

/-- A reserved code is refused (R69). -/
theorem State.transact_error {s : State} {q : Request} {op : BitVec 8} (hs : s.reqReady = true)
    (hq : decodeRequest q = .error (.reservedOpcode op)) :
    s.transact q = .refused (.reservedOpcode op) := by
  have h1 : step { s with inputs := [.request (requestWord q)] } = .refused (.reservedOpcode op) := by
    simp [step, resetNext, hs, State.takeInput, State.accept, decode_requestWord, hq]
  rw [State.transact, h1]

/-- What a ready core responds is what the instruction answers on the freshly transferred request. -/
theorem responds_iff {s : State} {q : Request} {r : Response} (hs : s.reqReady = true) :
    Responds s q r ↔ ∃ i, decodeRequest q = .ok i ∧
      ∃ t, exec i ({ s with inputs := [] }.transfer q) = .next t ∧ t.rspValid = true ∧ t.rsp = r := by
  unfold Responds
  cases hq : decodeRequest q with
  | ok i =>
    rw [State.transact_ok hs hq]
    constructor
    · intro h; exact ⟨i, rfl, h⟩
    · rintro ⟨j, hj, h⟩; cases hj; exact h
  | error e =>
    cases e with
    | reservedOpcode op =>
      rw [State.transact_error hs hq]
      simp

/-! ### Runs and several cores -/

theorem steps_succ_of_step {s t : State} (k : Nat) (h : step s = .next t) : steps (k + 1) s = steps k t := by
  rw [steps, h]

/-- A core's step is the step of its own state, put in its place (R317). -/
theorem stepCore_of_step {cores : List State} {j : Nat} {s t : State} (hj : cores[j]? = some s)
    (h : step s = .next t) : stepCore j cores = .next (cores.set j t) := by
  rw [stepCore, hj]
  simp only [h]

/-- All that a step of one core can do when it does not stop. -/
theorem stepCore_cases {cores one : List State} {j : Nat} (h : stepCore j cores = .next one) :
    (cores[j]? = none ∧ one = cores) ∨
    ∃ s t, cores[j]? = some s ∧ step s = .next t ∧ one = cores.set j t := by
  unfold stepCore at h
  split at h
  · next hj => cases h; exact .inl ⟨hj, rfl⟩
  · next s hj =>
    split at h
    · next t ht => cases h; exact .inr ⟨s, t, hj, ht, rfl⟩
    · cases h
    · cases h

end Sys2Proof.Machine
end

