-- ==== Sys2Proof/Laws/PerInstr.lean ====
section
/-! SUPPORT. The per-instruction family `EncodesWellFormed`: the request that the encoder writes for an
instruction passes both checks of WellFormed.lean (30_encoding R69, R80), whatever its operands. -/

namespace Sys2Proof.Laws.EncodesWellFormed

/-- The instruction's code is legal and the fields it does not read are zero. -/
def Statement (i : Instr) : Prop := (encodeRequest i).wellFormed = true

/-- One lemma's proof: the checks read the code alone, and the unread fields are literally zero. -/
theorem of_checks (op : BitVec 8) {q : Machine.Request} (h : q.OP = op) (hl : opLegal op = true)
    (ha : opReadsA op = true ∨ q.A = 0) (hb : opReadsB op = true ∨ q.B = 0)
    (hn : opReadsN op = true ∨ q.N = 0) : q.wellFormed = true := by
  subst h
  simp only [Machine.Request.wellFormed, Machine.Request.unreadZero, Machine.Request.legal, hl,
    Bool.true_and, Bool.and_eq_true, Bool.or_eq_true, decide_eq_true_eq]
  exact ⟨⟨ha, hb⟩, hn⟩

theorem addU (a b : Wide) : Statement (.addU a b) :=
  of_checks 0x00 rfl (by decide) (.inl (by decide)) (.inl (by decide)) (.inr rfl)
theorem subU (a b : Wide) : Statement (.subU a b) :=
  of_checks 0x01 rfl (by decide) (.inl (by decide)) (.inl (by decide)) (.inr rfl)
theorem negU (a : Wide) : Statement (.negU a) :=
  of_checks 0x02 rfl (by decide) (.inl (by decide)) (.inr rfl) (.inr rfl)
theorem andU (a b : Wide) : Statement (.andU a b) :=
  of_checks 0x10 rfl (by decide) (.inl (by decide)) (.inl (by decide)) (.inr rfl)
theorem andnotU (a b : Wide) : Statement (.andnotU a b) :=
  of_checks 0x11 rfl (by decide) (.inl (by decide)) (.inl (by decide)) (.inr rfl)
theorem orU (a b : Wide) : Statement (.orU a b) :=
  of_checks 0x12 rfl (by decide) (.inl (by decide)) (.inl (by decide)) (.inr rfl)
theorem norU (a b : Wide) : Statement (.norU a b) :=
  of_checks 0x13 rfl (by decide) (.inl (by decide)) (.inl (by decide)) (.inr rfl)
theorem nandU (a b : Wide) : Statement (.nandU a b) :=
  of_checks 0x14 rfl (by decide) (.inl (by decide)) (.inl (by decide)) (.inr rfl)
theorem xorU (a b : Wide) : Statement (.xorU a b) :=
  of_checks 0x15 rfl (by decide) (.inl (by decide)) (.inl (by decide)) (.inr rfl)
theorem xnorU (a b : Wide) : Statement (.xnorU a b) :=
  of_checks 0x16 rfl (by decide) (.inl (by decide)) (.inl (by decide)) (.inr rfl)
theorem notU (a : Wide) : Statement (.notU a) :=
  of_checks 0x17 rfl (by decide) (.inl (by decide)) (.inr rfl) (.inr rfl)
theorem cmpU (a b : Wide) : Statement (.cmpU a b) :=
  of_checks 0x20 rfl (by decide) (.inl (by decide)) (.inl (by decide)) (.inr rfl)
theorem eqU (a b : Wide) : Statement (.eqU a b) :=
  of_checks 0x21 rfl (by decide) (.inl (by decide)) (.inl (by decide)) (.inr rfl)
theorem ltU (a b : Wide) : Statement (.ltU a b) :=
  of_checks 0x22 rfl (by decide) (.inl (by decide)) (.inl (by decide)) (.inr rfl)
theorem lteU (a b : Wide) : Statement (.lteU a b) :=
  of_checks 0x23 rfl (by decide) (.inl (by decide)) (.inl (by decide)) (.inr rfl)
theorem gtU (a b : Wide) : Statement (.gtU a b) :=
  of_checks 0x24 rfl (by decide) (.inl (by decide)) (.inl (by decide)) (.inr rfl)
theorem gteU (a b : Wide) : Statement (.gteU a b) :=
  of_checks 0x25 rfl (by decide) (.inl (by decide)) (.inl (by decide)) (.inr rfl)
theorem lshiftU (a : Wide) : Statement (.lshiftU a) :=
  of_checks 0x30 rfl (by decide) (.inl (by decide)) (.inr rfl) (.inr rfl)
theorem lshiftnU (a : Wide) (n : Word) : Statement (.lshiftnU a n) :=
  of_checks 0x31 rfl (by decide) (.inl (by decide)) (.inr rfl) (.inl (by decide))
theorem rshiftU (a : Wide) : Statement (.rshiftU a) :=
  of_checks 0x32 rfl (by decide) (.inl (by decide)) (.inr rfl) (.inr rfl)
theorem rshiftnU (a : Wide) (n : Word) : Statement (.rshiftnU a n) :=
  of_checks 0x33 rfl (by decide) (.inl (by decide)) (.inr rfl) (.inl (by decide))
theorem rshiftvU (a b : Wide) : Statement (.rshiftvU a b) :=
  of_checks 0x34 rfl (by decide) (.inl (by decide)) (.inl (by decide)) (.inr rfl)
theorem mulU (a b : Wide) : Statement (.mulU a b) :=
  of_checks 0x40 rfl (by decide) (.inl (by decide)) (.inl (by decide)) (.inr rfl)
theorem divmodU (a b : Wide) : Statement (.divmodU a b) :=
  of_checks 0x41 rfl (by decide) (.inl (by decide)) (.inl (by decide)) (.inr rfl)
theorem divU (a b : Wide) : Statement (.divU a b) :=
  of_checks 0x42 rfl (by decide) (.inl (by decide)) (.inl (by decide)) (.inr rfl)
theorem modU (a b : Wide) : Statement (.modU a b) :=
  of_checks 0x43 rfl (by decide) (.inl (by decide)) (.inl (by decide)) (.inr rfl)
theorem bitlenU (a : Wide) : Statement (.bitlenU a) :=
  of_checks 0x50 rfl (by decide) (.inl (by decide)) (.inr rfl) (.inr rfl)
theorem bitlen64 (n : Word) : Statement (.bitlen64 n) :=
  of_checks 0x51 rfl (by decide) (.inr rfl) (.inr rfl) (.inl (by decide))
theorem fromu64U (n : Word) : Statement (.fromu64U n) :=
  of_checks 0x60 rfl (by decide) (.inr rfl) (.inr rfl) (.inl (by decide))
theorem fromi64U (n : Word) : Statement (.fromi64U n) :=
  of_checks 0x61 rfl (by decide) (.inr rfl) (.inr rfl) (.inl (by decide))
theorem tou64U (a : Wide) : Statement (.tou64U a) :=
  of_checks 0x62 rfl (by decide) (.inl (by decide)) (.inr rfl) (.inr rfl)
theorem toi64U (a : Wide) : Statement (.toi64U a) :=
  of_checks 0x63 rfl (by decide) (.inl (by decide)) (.inr rfl) (.inr rfl)
theorem tosignedU (a : Wide) : Statement (.tosignedU a) :=
  of_checks 0x64 rfl (by decide) (.inl (by decide)) (.inr rfl) (.inr rfl)
theorem fitss64U (a : Wide) : Statement (.fitss64U a) :=
  of_checks 0x65 rfl (by decide) (.inl (by decide)) (.inr rfl) (.inr rfl)
theorem fitsu64U (a : Wide) : Statement (.fitsu64U a) :=
  of_checks 0x66 rfl (by decide) (.inl (by decide)) (.inr rfl) (.inr rfl)
theorem addI (a b : Wide) : Statement (.addI a b) :=
  of_checks 0x80 rfl (by decide) (.inl (by decide)) (.inl (by decide)) (.inr rfl)
theorem subI (a b : Wide) : Statement (.subI a b) :=
  of_checks 0x81 rfl (by decide) (.inl (by decide)) (.inl (by decide)) (.inr rfl)
theorem negI (a : Wide) : Statement (.negI a) :=
  of_checks 0x82 rfl (by decide) (.inl (by decide)) (.inr rfl) (.inr rfl)
theorem absI (a : Wide) : Statement (.absI a) :=
  of_checks 0x83 rfl (by decide) (.inl (by decide)) (.inr rfl) (.inr rfl)
theorem andI (a b : Wide) : Statement (.andI a b) :=
  of_checks 0x90 rfl (by decide) (.inl (by decide)) (.inl (by decide)) (.inr rfl)
theorem andnotI (a b : Wide) : Statement (.andnotI a b) :=
  of_checks 0x91 rfl (by decide) (.inl (by decide)) (.inl (by decide)) (.inr rfl)
theorem orI (a b : Wide) : Statement (.orI a b) :=
  of_checks 0x92 rfl (by decide) (.inl (by decide)) (.inl (by decide)) (.inr rfl)
theorem norI (a b : Wide) : Statement (.norI a b) :=
  of_checks 0x93 rfl (by decide) (.inl (by decide)) (.inl (by decide)) (.inr rfl)
theorem nandI (a b : Wide) : Statement (.nandI a b) :=
  of_checks 0x94 rfl (by decide) (.inl (by decide)) (.inl (by decide)) (.inr rfl)
theorem xorI (a b : Wide) : Statement (.xorI a b) :=
  of_checks 0x95 rfl (by decide) (.inl (by decide)) (.inl (by decide)) (.inr rfl)
theorem xnorI (a b : Wide) : Statement (.xnorI a b) :=
  of_checks 0x96 rfl (by decide) (.inl (by decide)) (.inl (by decide)) (.inr rfl)
theorem notI (a : Wide) : Statement (.notI a) :=
  of_checks 0x97 rfl (by decide) (.inl (by decide)) (.inr rfl) (.inr rfl)
theorem cmpI (a b : Wide) : Statement (.cmpI a b) :=
  of_checks 0xA0 rfl (by decide) (.inl (by decide)) (.inl (by decide)) (.inr rfl)
theorem eqI (a b : Wide) : Statement (.eqI a b) :=
  of_checks 0xA1 rfl (by decide) (.inl (by decide)) (.inl (by decide)) (.inr rfl)
theorem ltI (a b : Wide) : Statement (.ltI a b) :=
  of_checks 0xA2 rfl (by decide) (.inl (by decide)) (.inl (by decide)) (.inr rfl)
theorem lteI (a b : Wide) : Statement (.lteI a b) :=
  of_checks 0xA3 rfl (by decide) (.inl (by decide)) (.inl (by decide)) (.inr rfl)
theorem gtI (a b : Wide) : Statement (.gtI a b) :=
  of_checks 0xA4 rfl (by decide) (.inl (by decide)) (.inl (by decide)) (.inr rfl)
theorem gteI (a b : Wide) : Statement (.gteI a b) :=
  of_checks 0xA5 rfl (by decide) (.inl (by decide)) (.inl (by decide)) (.inr rfl)
theorem abscmpI (a b : Wide) : Statement (.abscmpI a b) :=
  of_checks 0xA8 rfl (by decide) (.inl (by decide)) (.inl (by decide)) (.inr rfl)
theorem abseqI (a b : Wide) : Statement (.abseqI a b) :=
  of_checks 0xA9 rfl (by decide) (.inl (by decide)) (.inl (by decide)) (.inr rfl)
theorem absltI (a b : Wide) : Statement (.absltI a b) :=
  of_checks 0xAA rfl (by decide) (.inl (by decide)) (.inl (by decide)) (.inr rfl)
theorem abslteI (a b : Wide) : Statement (.abslteI a b) :=
  of_checks 0xAB rfl (by decide) (.inl (by decide)) (.inl (by decide)) (.inr rfl)
theorem absgtI (a b : Wide) : Statement (.absgtI a b) :=
  of_checks 0xAC rfl (by decide) (.inl (by decide)) (.inl (by decide)) (.inr rfl)
theorem absgteI (a b : Wide) : Statement (.absgteI a b) :=
  of_checks 0xAD rfl (by decide) (.inl (by decide)) (.inl (by decide)) (.inr rfl)
theorem lshiftI (a : Wide) : Statement (.lshiftI a) :=
  of_checks 0xB0 rfl (by decide) (.inl (by decide)) (.inr rfl) (.inr rfl)
theorem lshiftnI (a : Wide) (n : Word) : Statement (.lshiftnI a n) :=
  of_checks 0xB1 rfl (by decide) (.inl (by decide)) (.inr rfl) (.inl (by decide))
theorem rshiftI (a : Wide) : Statement (.rshiftI a) :=
  of_checks 0xB2 rfl (by decide) (.inl (by decide)) (.inr rfl) (.inr rfl)
theorem rshiftnI (a : Wide) (n : Word) : Statement (.rshiftnI a n) :=
  of_checks 0xB3 rfl (by decide) (.inl (by decide)) (.inr rfl) (.inl (by decide))
theorem rshiftvI (a b : Wide) : Statement (.rshiftvI a b) :=
  of_checks 0xB4 rfl (by decide) (.inl (by decide)) (.inl (by decide)) (.inr rfl)
theorem mulI (a b : Wide) : Statement (.mulI a b) :=
  of_checks 0xC0 rfl (by decide) (.inl (by decide)) (.inl (by decide)) (.inr rfl)
theorem divmodI (a b : Wide) : Statement (.divmodI a b) :=
  of_checks 0xC1 rfl (by decide) (.inl (by decide)) (.inl (by decide)) (.inr rfl)
theorem divI (a b : Wide) : Statement (.divI a b) :=
  of_checks 0xC2 rfl (by decide) (.inl (by decide)) (.inl (by decide)) (.inr rfl)
theorem modI (a b : Wide) : Statement (.modI a b) :=
  of_checks 0xC3 rfl (by decide) (.inl (by decide)) (.inl (by decide)) (.inr rfl)
theorem fromu64I (n : Word) : Statement (.fromu64I n) :=
  of_checks 0xE0 rfl (by decide) (.inr rfl) (.inr rfl) (.inl (by decide))
theorem fromi64I (n : Word) : Statement (.fromi64I n) :=
  of_checks 0xE1 rfl (by decide) (.inr rfl) (.inr rfl) (.inl (by decide))
theorem tou64I (a : Wide) : Statement (.tou64I a) :=
  of_checks 0xE2 rfl (by decide) (.inl (by decide)) (.inr rfl) (.inr rfl)
theorem toi64I (a : Wide) : Statement (.toi64I a) :=
  of_checks 0xE3 rfl (by decide) (.inl (by decide)) (.inr rfl) (.inr rfl)
theorem tounsignedI (a : Wide) : Statement (.tounsignedI a) :=
  of_checks 0xE4 rfl (by decide) (.inl (by decide)) (.inr rfl) (.inr rfl)
theorem fitss64I (a : Wide) : Statement (.fitss64I a) :=
  of_checks 0xE5 rfl (by decide) (.inl (by decide)) (.inr rfl) (.inr rfl)
theorem fitsu64I (a : Wide) : Statement (.fitsu64I a) :=
  of_checks 0xE6 rfl (by decide) (.inl (by decide)) (.inr rfl) (.inr rfl)
theorem isnegI (a : Wide) : Statement (.isnegI a) :=
  of_checks 0xE8 rfl (by decide) (.inl (by decide)) (.inr rfl) (.inr rfl)
theorem isposI (a : Wide) : Statement (.isposI a) :=
  of_checks 0xE9 rfl (by decide) (.inl (by decide)) (.inr rfl) (.inr rfl)
theorem signI (a : Wide) : Statement (.signI a) :=
  of_checks 0xEA rfl (by decide) (.inl (by decide)) (.inr rfl) (.inr rfl)

end Sys2Proof.Laws.EncodesWellFormed
end

