-- ==== Sys2Proof/Laws/Results.lean ====
section
/-! SUPPORT. What each instruction answers, as one table, and that `exec` answers exactly that from
every state: no later proof needs to unfold a meaning. -/

namespace Sys2Proof.Machine

/-- The response of each instruction (R62), in the functions of 00_scope R15 and, for the blocks that
work in registers, in the values Laws/Units.lean proves of them. -/
def result : Instr → Response
  | .addU a b => { Z := add128 a b }
  | .subU a b => { Z := sub128 a b }
  | .negU a => { Z := neg128 a }
  | .andU a b => { Z := and128 a b }
  | .andnotU a b => { Z := andnot128 a b }
  | .orU a b => { Z := or128 a b }
  | .norU a b => { Z := nor128 a b }
  | .nandU a b => { Z := nand128 a b }
  | .xorU a b => { Z := xor128 a b }
  | .xnorU a b => { Z := xnor128 a b }
  | .notU a => { Z := not128 a }
  | .cmpU a b => { S := threeWayS (cmpu128 a b) }
  | .eqU a b => { S := boolS (isEq (cmpu128 a b)) }
  | .ltU a b => { S := boolS (isLt (cmpu128 a b)) }
  | .lteU a b => { S := boolS (isLte (cmpu128 a b)) }
  | .gtU a b => { S := boolS (isGt (cmpu128 a b)) }
  | .gteU a b => { S := boolS (isGte (cmpu128 a b)) }
  | .lshiftU a => { Z := shl128 a amountOne }
  | .lshiftnU a n => { Z := shl128 a (amountN n) }
  | .rshiftU a => { Z := shr128 a amountOne }
  | .rshiftnU a n => { Z := shr128 a (amountN n) }
  | .rshiftvU a b => { Z := shrByValue a b }
  | .mulU a b => { Z := a * b }
  | .divmodU a b => if b = ZERO then { ERR := 1 } else { Z := a / b, R := a % b }
  | .divU a b => if b = ZERO then { ERR := 1 } else { Z := a / b }
  | .modU a b => if b = ZERO then { ERR := 1 } else { Z := a % b }
  | .bitlenU a => { S := lengthS (Nat.size a.toNat) }
  | .bitlen64 n => { S := lengthS (Nat.size n.toNat) }
  | .fromu64U n => { Z := widenU n }
  | .fromi64U n => { Z := widenS n }
  | .tou64U a => { S := narrow a }
  | .toi64U a => { S := narrow a }
  | .tosignedU a => { Z := reinterp a }
  | .fitss64U a => { S := boolS (fitsS64U a) }
  | .fitsu64U a => { S := boolS (fitsU64U a) }
  | .addI a b => { Z := add128 a b }
  | .subI a b => { Z := sub128 a b }
  | .negI a => { Z := neg128 a }
  | .absI a => { Z := abs128 a }
  | .andI a b => { Z := and128 a b }
  | .andnotI a b => { Z := andnot128 a b }
  | .orI a b => { Z := or128 a b }
  | .norI a b => { Z := nor128 a b }
  | .nandI a b => { Z := nand128 a b }
  | .xorI a b => { Z := xor128 a b }
  | .xnorI a b => { Z := xnor128 a b }
  | .notI a => { Z := not128 a }
  | .cmpI a b => { S := threeWayS (cmps128 a b) }
  | .eqI a b => { S := boolS (isEq (cmps128 a b)) }
  | .ltI a b => { S := boolS (isLt (cmps128 a b)) }
  | .lteI a b => { S := boolS (isLte (cmps128 a b)) }
  | .gtI a b => { S := boolS (isGt (cmps128 a b)) }
  | .gteI a b => { S := boolS (isGte (cmps128 a b)) }
  | .abscmpI a b => { S := threeWayS (cmpabs128 Config.abscmpReading a b) }
  | .abseqI a b => { S := boolS (isEq (cmpabs128 Config.abscmpReading a b)) }
  | .absltI a b => { S := boolS (isLt (cmpabs128 Config.abscmpReading a b)) }
  | .abslteI a b => { S := boolS (isLte (cmpabs128 Config.abscmpReading a b)) }
  | .absgtI a b => { S := boolS (isGt (cmpabs128 Config.abscmpReading a b)) }
  | .absgteI a b => { S := boolS (isGte (cmpabs128 Config.abscmpReading a b)) }
  | .lshiftI a => { Z := shl128 a amountOne }
  | .lshiftnI a n => { Z := shl128 a (amountN n) }
  | .rshiftI a => { Z := sar128 a amountOne }
  | .rshiftnI a n => { Z := sar128 a (amountN n) }
  | .rshiftvI a b => { Z := sarByValue Config.rshiftvIRange a b }
  | .mulI a b => { Z := a * b }
  | .divmodI a b => if b = ZERO then { ERR := 1 } else { Z := a.sdiv b, R := a.srem b }
  | .divI a b => if b = ZERO then { ERR := 1 } else { Z := a.sdiv b }
  | .modI a b => if b = ZERO then { ERR := 1 } else { Z := a.srem b }
  | .fromu64I n => { Z := widenU n }
  | .fromi64I n => { Z := widenS n }
  | .tou64I a => { S := narrow a }
  | .toi64I a => { S := narrow a }
  | .tounsignedI a => { Z := reinterp a }
  | .fitss64I a => { S := boolS (fitsS64I a) }
  | .fitsu64I a => { S := boolS (fitsU64I a) }
  | .isnegI a => { S := boolS (isNeg a) }
  | .isposI a => { S := boolS (isPos Config.isposZero a) }
  | .signI a => { S := threeWayS (signThreeWay a) }

/-- Every instruction answers with its row of the table, whatever state it runs in. -/
theorem answers_result (i : Instr) (s : State) : Answers i s (result i) := by
  cases i with
  | addU a b => exact answers_answerZ rfl
  | subU a b => exact answers_answerZ rfl
  | negU a => exact answers_answerZ rfl
  | andU a b => exact answers_answerZ rfl
  | andnotU a b => exact answers_answerZ rfl
  | orU a b => exact answers_answerZ rfl
  | norU a b => exact answers_answerZ rfl
  | nandU a b => exact answers_answerZ rfl
  | xorU a b => exact answers_answerZ rfl
  | xnorU a b => exact answers_answerZ rfl
  | notU a => exact answers_answerZ rfl
  | cmpU a b => exact answers_answerS rfl
  | eqU a b => exact answers_answerS rfl
  | ltU a b => exact answers_answerS rfl
  | lteU a b => exact answers_answerS rfl
  | gtU a b => exact answers_answerS rfl
  | gteU a b => exact answers_answerS rfl
  | lshiftU a => exact answers_answerZ rfl
  | lshiftnU a n => exact answers_answerZ rfl
  | rshiftU a => exact answers_answerZ rfl
  | rshiftnU a n => exact answers_answerZ rfl
  | rshiftvU a b => exact answers_answerZ rfl
  | mulU a b => exact answers_multiply rfl
  | divmodU a b => exact answers_divideUnsigned (form := fun q r => { Z := q, R := r }) rfl
  | divU a b => exact answers_divideUnsigned (form := fun q _ => { Z := q }) rfl
  | modU a b => exact answers_divideUnsigned (form := fun _ r => { Z := r }) rfl
  | bitlenU a =>
    have h := answers_answerLength (i := .bitlenU a) (s := s) rfl
    rwa [bitlen128Unit_value] at h
  | bitlen64 n =>
    have h := answers_answerLength (i := .bitlen64 n) (s := s) rfl
    rwa [bitlen64Unit_value] at h
  | fromu64U n => exact answers_answerZ rfl
  | fromi64U n => exact answers_answerZ rfl
  | tou64U a => exact answers_answerS rfl
  | toi64U a => exact answers_answerS rfl
  | tosignedU a => exact answers_answerZ rfl
  | fitss64U a => exact answers_answerS rfl
  | fitsu64U a => exact answers_answerS rfl
  | addI a b => exact answers_answerZ rfl
  | subI a b => exact answers_answerZ rfl
  | negI a => exact answers_answerZ rfl
  | absI a => exact answers_answerZ rfl
  | andI a b => exact answers_answerZ rfl
  | andnotI a b => exact answers_answerZ rfl
  | orI a b => exact answers_answerZ rfl
  | norI a b => exact answers_answerZ rfl
  | nandI a b => exact answers_answerZ rfl
  | xorI a b => exact answers_answerZ rfl
  | xnorI a b => exact answers_answerZ rfl
  | notI a => exact answers_answerZ rfl
  | cmpI a b => exact answers_answerS rfl
  | eqI a b => exact answers_answerS rfl
  | ltI a b => exact answers_answerS rfl
  | lteI a b => exact answers_answerS rfl
  | gtI a b => exact answers_answerS rfl
  | gteI a b => exact answers_answerS rfl
  | abscmpI a b => exact answers_answerS rfl
  | abseqI a b => exact answers_answerS rfl
  | absltI a b => exact answers_answerS rfl
  | abslteI a b => exact answers_answerS rfl
  | absgtI a b => exact answers_answerS rfl
  | absgteI a b => exact answers_answerS rfl
  | lshiftI a => exact answers_answerZ rfl
  | lshiftnI a n => exact answers_answerZ rfl
  | rshiftI a => exact answers_answerZ rfl
  | rshiftnI a n => exact answers_answerZ rfl
  | rshiftvI a b => exact answers_answerZ rfl
  | mulI a b => exact answers_multiply rfl
  | divmodI a b => exact answers_divideSigned (form := fun q r => { Z := q, R := r }) rfl
  | divI a b => exact answers_divideSigned (form := fun q _ => { Z := q }) rfl
  | modI a b => exact answers_divideSigned (form := fun _ r => { Z := r }) rfl
  | fromu64I n => exact answers_answerZ rfl
  | fromi64I n => exact answers_answerZ rfl
  | tou64I a => exact answers_answerS rfl
  | toi64I a => exact answers_answerS rfl
  | tounsignedI a => exact answers_answerZ rfl
  | fitss64I a => exact answers_answerS rfl
  | fitsu64I a => exact answers_answerS rfl
  | isnegI a => exact answers_answerS rfl
  | isposI a => exact answers_answerS rfl
  | signI a => exact answers_answerS rfl

/-- And with nothing else. -/
theorem answers_iff {i : Instr} {s : State} {r : Response} : Answers i s r ↔ r = result i :=
  ⟨fun h => h.unique (answers_result i s), fun h => h ▸ answers_result i s⟩

/-- What a ready core responds to a request. -/
theorem responds_iff_result {s : State} {q : Request} {r : Response} (hs : s.reqReady = true) :
    Responds s q r ↔ ∃ i, decodeRequest q = .ok i ∧ r = result i := by
  rw [responds_iff hs]
  constructor
  · rintro ⟨i, hi, t, h1, -, h3⟩
    obtain ⟨t', e', -, hr, -⟩ := answers_result i (({ s with inputs := [] } : State).transfer q)
    rw [h1] at e'
    cases e'
    exact ⟨i, hi, by rw [← h3, hr]⟩
  · rintro ⟨i, hi, rfl⟩
    obtain ⟨t', e', hv, hr, -⟩ := answers_result i (({ s with inputs := [] } : State).transfer q)
    exact ⟨i, hi, t', e', hv, hr⟩

end Sys2Proof.Machine
end

