-- ==== Sys2Proof/Tests/Slice0.lean ====
section
/-! SUPPORT. The model's own tests. Every expected value is the spec's: the encodings of R60, R62, R80,
the examples and vectors of 95_test_vectors, the traces of its section 4. The witnesses at the end show
that each statement of Certificates/Slice0/Obligations.lean with hypotheses has inputs that meet them. -/

namespace Sys2Proof.Tests

set_option Elab.async false

open Sys2Proof Sys2Proof.Machine

/-! ### Helpers -/

def opA : Wide := 0x0123456789ABCDEFFEDCBA9876543210
def opB : Wide := 0xFF00FF00FF00FF000F0F0F0F0F0F0F0F
def opN : Word := 0x46

/-- Each word, given to the decoder as a table word, is the instruction beside it. -/
def decodesTo (rows : List (Nat × Instr)) : Bool :=
  rows.all fun row => decide (decodeTableWord 328 row.1 = some row.2)

/-- The response that one step leaves after `s` has taken the request. -/
def stepFrom (s : State) (w : Nat) : Option Response :=
  match step (s.withFetchWord 328 w) with
  | .next t => if t.rspValid && t.reqReady then some t.rsp else none
  | _ => none

/-- Each request, run as the first after reset, gets the response beside it. -/
def responds (rows : List (Request × Response)) : Bool :=
  rows.all fun row => decide (stepFrom State.reset (requestWord row.1).toNat = some row.2)

/-- A state of a small run: nothing pending, `q` in progress. -/
def busy (q : Request) : State := { State.reset with reqReady := false, req := q }

/-- Whether a transaction from `s` gets the response `r`. -/
def gets (s : State) (q : Request) (r : Response) : Bool :=
  match s.transact q with
  | .next t => t.rspValid && decide (t.rsp = r)
  | _ => false

theorem responds_of_gets {s : State} {q : Request} {r : Response} (h : gets s q r = true) :
    Responds s q r := by
  unfold gets at h
  split at h
  · next t ht =>
    rw [Bool.and_eq_true, decide_eq_true_eq] at h
    exact ⟨t, ht, h⟩
  · cases h

/-- The line at which a sequence is aborted. -/
def abortedAt : SeqOutcome → Option Nat
  | .aborted line _ => some line
  | _ => none

/-- The 64-bit temporaries of a sequence that finishes. -/
def finishedWords : SeqOutcome → Option (List (Nat × Word))
  | .finished env _ => some env.words
  | _ => none

/-! ### WellFormed: a term that each check refuses -/

/-- R69: a reserved code. -/
theorem test_reserved_code_is_ill_formed :
    ({ OP := 0x03 } : Request).legal = false ∧ ({ OP := 0x03 } : Request).wellFormed = false ∧
    ({ OP := 0x70 } : Request).legal = false ∧ ({ OP := 0xFF } : Request).legal = false := by decide

/-- R80: bits in a field the operation does not read: `B` of `NEG.U`, `N` of `ADD.U`, `A` of `BITLEN64`. -/
theorem test_unread_field_is_ill_formed :
    ({ OP := 0x02, A := 1, B := 1 } : Request).unreadZero = false ∧
    ({ OP := 0x00, A := 1, B := 1, N := 1 } : Request).unreadZero = false ∧
    ({ OP := 0x51, A := 1, N := 1 } : Request).unreadZero = false ∧
    ({ OP := 0x02, A := 1, B := 1 } : Request).wellFormed = false := by decide

/-- And terms that both checks accept. -/
theorem test_well_formed_requests :
    ({ OP := 0x00, A := 1, B := 2 } : Request).wellFormed = true ∧
    ({ OP := 0xB1, A := 1, N := 70 } : Request).wellFormed = true ∧
    ({ OP := 0x51, N := 0x100 } : Request).wellFormed = true := by decide

/-! ### Decoding -/

/-- Group 0 of the unsigned engine (R60, R62): `REQ` words written out field by field, the unread fields
filled too (R65). -/
theorem test_decode_AddSub_Unsigned :
    decodesTo [
      (0x000123456789ABCDEFFEDCBA9876543210FF00FF00FF00FF000F0F0F0F0F0F0F0F0000000000000046, .addU opA opB),
      (0x010123456789ABCDEFFEDCBA9876543210FF00FF00FF00FF000F0F0F0F0F0F0F0F0000000000000046, .subU opA opB),
      (0x020123456789ABCDEFFEDCBA9876543210FF00FF00FF00FF000F0F0F0F0F0F0F0F0000000000000046, .negU opA)] = true := by decide +kernel

/-- Group 0 of the signed engine (R60, R62): `REQ` words written out field by field, the unread fields
filled too (R65). -/
theorem test_decode_AddSub_Signed :
    decodesTo [
      (0x800123456789ABCDEFFEDCBA9876543210FF00FF00FF00FF000F0F0F0F0F0F0F0F0000000000000046, .addI opA opB),
      (0x810123456789ABCDEFFEDCBA9876543210FF00FF00FF00FF000F0F0F0F0F0F0F0F0000000000000046, .subI opA opB),
      (0x820123456789ABCDEFFEDCBA9876543210FF00FF00FF00FF000F0F0F0F0F0F0F0F0000000000000046, .negI opA),
      (0x830123456789ABCDEFFEDCBA9876543210FF00FF00FF00FF000F0F0F0F0F0F0F0F0000000000000046, .absI opA)] = true := by decide +kernel

/-- Group 1 of the unsigned engine (R60, R62): `REQ` words written out field by field, the unread fields
filled too (R65). -/
theorem test_decode_Bitwise_Unsigned :
    decodesTo [
      (0x100123456789ABCDEFFEDCBA9876543210FF00FF00FF00FF000F0F0F0F0F0F0F0F0000000000000046, .andU opA opB),
      (0x110123456789ABCDEFFEDCBA9876543210FF00FF00FF00FF000F0F0F0F0F0F0F0F0000000000000046, .andnotU opA opB),
      (0x120123456789ABCDEFFEDCBA9876543210FF00FF00FF00FF000F0F0F0F0F0F0F0F0000000000000046, .orU opA opB),
      (0x130123456789ABCDEFFEDCBA9876543210FF00FF00FF00FF000F0F0F0F0F0F0F0F0000000000000046, .norU opA opB),
      (0x140123456789ABCDEFFEDCBA9876543210FF00FF00FF00FF000F0F0F0F0F0F0F0F0000000000000046, .nandU opA opB),
      (0x150123456789ABCDEFFEDCBA9876543210FF00FF00FF00FF000F0F0F0F0F0F0F0F0000000000000046, .xorU opA opB),
      (0x160123456789ABCDEFFEDCBA9876543210FF00FF00FF00FF000F0F0F0F0F0F0F0F0000000000000046, .xnorU opA opB),
      (0x170123456789ABCDEFFEDCBA9876543210FF00FF00FF00FF000F0F0F0F0F0F0F0F0000000000000046, .notU opA)] = true := by decide +kernel

/-- Group 1 of the signed engine (R60, R62): `REQ` words written out field by field, the unread fields
filled too (R65). -/
theorem test_decode_Bitwise_Signed :
    decodesTo [
      (0x900123456789ABCDEFFEDCBA9876543210FF00FF00FF00FF000F0F0F0F0F0F0F0F0000000000000046, .andI opA opB),
      (0x910123456789ABCDEFFEDCBA9876543210FF00FF00FF00FF000F0F0F0F0F0F0F0F0000000000000046, .andnotI opA opB),
      (0x920123456789ABCDEFFEDCBA9876543210FF00FF00FF00FF000F0F0F0F0F0F0F0F0000000000000046, .orI opA opB),
      (0x930123456789ABCDEFFEDCBA9876543210FF00FF00FF00FF000F0F0F0F0F0F0F0F0000000000000046, .norI opA opB),
      (0x940123456789ABCDEFFEDCBA9876543210FF00FF00FF00FF000F0F0F0F0F0F0F0F0000000000000046, .nandI opA opB),
      (0x950123456789ABCDEFFEDCBA9876543210FF00FF00FF00FF000F0F0F0F0F0F0F0F0000000000000046, .xorI opA opB),
      (0x960123456789ABCDEFFEDCBA9876543210FF00FF00FF00FF000F0F0F0F0F0F0F0F0000000000000046, .xnorI opA opB),
      (0x970123456789ABCDEFFEDCBA9876543210FF00FF00FF00FF000F0F0F0F0F0F0F0F0000000000000046, .notI opA)] = true := by decide +kernel

/-- Group 2 of the unsigned engine (R60, R62): `REQ` words written out field by field, the unread fields
filled too (R65). -/
theorem test_decode_Compare_Unsigned :
    decodesTo [
      (0x200123456789ABCDEFFEDCBA9876543210FF00FF00FF00FF000F0F0F0F0F0F0F0F0000000000000046, .cmpU opA opB),
      (0x210123456789ABCDEFFEDCBA9876543210FF00FF00FF00FF000F0F0F0F0F0F0F0F0000000000000046, .eqU opA opB),
      (0x220123456789ABCDEFFEDCBA9876543210FF00FF00FF00FF000F0F0F0F0F0F0F0F0000000000000046, .ltU opA opB),
      (0x230123456789ABCDEFFEDCBA9876543210FF00FF00FF00FF000F0F0F0F0F0F0F0F0000000000000046, .lteU opA opB),
      (0x240123456789ABCDEFFEDCBA9876543210FF00FF00FF00FF000F0F0F0F0F0F0F0F0000000000000046, .gtU opA opB),
      (0x250123456789ABCDEFFEDCBA9876543210FF00FF00FF00FF000F0F0F0F0F0F0F0F0000000000000046, .gteU opA opB)] = true := by decide +kernel

/-- Group 2 of the signed engine (R60, R62): `REQ` words written out field by field, the unread fields
filled too (R65). -/
theorem test_decode_Compare_Signed :
    decodesTo [
      (0xA00123456789ABCDEFFEDCBA9876543210FF00FF00FF00FF000F0F0F0F0F0F0F0F0000000000000046, .cmpI opA opB),
      (0xA10123456789ABCDEFFEDCBA9876543210FF00FF00FF00FF000F0F0F0F0F0F0F0F0000000000000046, .eqI opA opB),
      (0xA20123456789ABCDEFFEDCBA9876543210FF00FF00FF00FF000F0F0F0F0F0F0F0F0000000000000046, .ltI opA opB),
      (0xA30123456789ABCDEFFEDCBA9876543210FF00FF00FF00FF000F0F0F0F0F0F0F0F0000000000000046, .lteI opA opB),
      (0xA40123456789ABCDEFFEDCBA9876543210FF00FF00FF00FF000F0F0F0F0F0F0F0F0000000000000046, .gtI opA opB),
      (0xA50123456789ABCDEFFEDCBA9876543210FF00FF00FF00FF000F0F0F0F0F0F0F0F0000000000000046, .gteI opA opB),
      (0xA80123456789ABCDEFFEDCBA9876543210FF00FF00FF00FF000F0F0F0F0F0F0F0F0000000000000046, .abscmpI opA opB),
      (0xA90123456789ABCDEFFEDCBA9876543210FF00FF00FF00FF000F0F0F0F0F0F0F0F0000000000000046, .abseqI opA opB),
      (0xAA0123456789ABCDEFFEDCBA9876543210FF00FF00FF00FF000F0F0F0F0F0F0F0F0000000000000046, .absltI opA opB),
      (0xAB0123456789ABCDEFFEDCBA9876543210FF00FF00FF00FF000F0F0F0F0F0F0F0F0000000000000046, .abslteI opA opB),
      (0xAC0123456789ABCDEFFEDCBA9876543210FF00FF00FF00FF000F0F0F0F0F0F0F0F0000000000000046, .absgtI opA opB),
      (0xAD0123456789ABCDEFFEDCBA9876543210FF00FF00FF00FF000F0F0F0F0F0F0F0F0000000000000046, .absgteI opA opB)] = true := by decide +kernel

/-- Group 3 of the unsigned engine (R60, R62): `REQ` words written out field by field, the unread fields
filled too (R65). -/
theorem test_decode_Shift_Unsigned :
    decodesTo [
      (0x300123456789ABCDEFFEDCBA9876543210FF00FF00FF00FF000F0F0F0F0F0F0F0F0000000000000046, .lshiftU opA),
      (0x310123456789ABCDEFFEDCBA9876543210FF00FF00FF00FF000F0F0F0F0F0F0F0F0000000000000046, .lshiftnU opA opN),
      (0x320123456789ABCDEFFEDCBA9876543210FF00FF00FF00FF000F0F0F0F0F0F0F0F0000000000000046, .rshiftU opA),
      (0x330123456789ABCDEFFEDCBA9876543210FF00FF00FF00FF000F0F0F0F0F0F0F0F0000000000000046, .rshiftnU opA opN),
      (0x340123456789ABCDEFFEDCBA9876543210FF00FF00FF00FF000F0F0F0F0F0F0F0F0000000000000046, .rshiftvU opA opB)] = true := by decide +kernel

/-- Group 3 of the signed engine (R60, R62): `REQ` words written out field by field, the unread fields
filled too (R65). -/
theorem test_decode_Shift_Signed :
    decodesTo [
      (0xB00123456789ABCDEFFEDCBA9876543210FF00FF00FF00FF000F0F0F0F0F0F0F0F0000000000000046, .lshiftI opA),
      (0xB10123456789ABCDEFFEDCBA9876543210FF00FF00FF00FF000F0F0F0F0F0F0F0F0000000000000046, .lshiftnI opA opN),
      (0xB20123456789ABCDEFFEDCBA9876543210FF00FF00FF00FF000F0F0F0F0F0F0F0F0000000000000046, .rshiftI opA),
      (0xB30123456789ABCDEFFEDCBA9876543210FF00FF00FF00FF000F0F0F0F0F0F0F0F0000000000000046, .rshiftnI opA opN),
      (0xB40123456789ABCDEFFEDCBA9876543210FF00FF00FF00FF000F0F0F0F0F0F0F0F0000000000000046, .rshiftvI opA opB)] = true := by decide +kernel

/-- Group 4 of the unsigned engine (R60, R62): `REQ` words written out field by field, the unread fields
filled too (R65). -/
theorem test_decode_MulDiv_Unsigned :
    decodesTo [
      (0x400123456789ABCDEFFEDCBA9876543210FF00FF00FF00FF000F0F0F0F0F0F0F0F0000000000000046, .mulU opA opB),
      (0x410123456789ABCDEFFEDCBA9876543210FF00FF00FF00FF000F0F0F0F0F0F0F0F0000000000000046, .divmodU opA opB),
      (0x420123456789ABCDEFFEDCBA9876543210FF00FF00FF00FF000F0F0F0F0F0F0F0F0000000000000046, .divU opA opB),
      (0x430123456789ABCDEFFEDCBA9876543210FF00FF00FF00FF000F0F0F0F0F0F0F0F0000000000000046, .modU opA opB)] = true := by decide +kernel

/-- Group 4 of the signed engine (R60, R62): `REQ` words written out field by field, the unread fields
filled too (R65). -/
theorem test_decode_MulDiv_Signed :
    decodesTo [
      (0xC00123456789ABCDEFFEDCBA9876543210FF00FF00FF00FF000F0F0F0F0F0F0F0F0000000000000046, .mulI opA opB),
      (0xC10123456789ABCDEFFEDCBA9876543210FF00FF00FF00FF000F0F0F0F0F0F0F0F0000000000000046, .divmodI opA opB),
      (0xC20123456789ABCDEFFEDCBA9876543210FF00FF00FF00FF000F0F0F0F0F0F0F0F0000000000000046, .divI opA opB),
      (0xC30123456789ABCDEFFEDCBA9876543210FF00FF00FF00FF000F0F0F0F0F0F0F0F0000000000000046, .modI opA opB)] = true := by decide +kernel

/-- Group 5 of the unsigned engine (R60, R62): `REQ` words written out field by field, the unread fields
filled too (R65). -/
theorem test_decode_BitLength_Unsigned :
    decodesTo [
      (0x500123456789ABCDEFFEDCBA9876543210FF00FF00FF00FF000F0F0F0F0F0F0F0F0000000000000046, .bitlenU opA),
      (0x510123456789ABCDEFFEDCBA9876543210FF00FF00FF00FF000F0F0F0F0F0F0F0F0000000000000046, .bitlen64 opN)] = true := by decide +kernel

/-- Group 6 of the unsigned engine (R60, R62): `REQ` words written out field by field, the unread fields
filled too (R65). -/
theorem test_decode_Convert_Unsigned :
    decodesTo [
      (0x600123456789ABCDEFFEDCBA9876543210FF00FF00FF00FF000F0F0F0F0F0F0F0F0000000000000046, .fromu64U opN),
      (0x610123456789ABCDEFFEDCBA9876543210FF00FF00FF00FF000F0F0F0F0F0F0F0F0000000000000046, .fromi64U opN),
      (0x620123456789ABCDEFFEDCBA9876543210FF00FF00FF00FF000F0F0F0F0F0F0F0F0000000000000046, .tou64U opA),
      (0x630123456789ABCDEFFEDCBA9876543210FF00FF00FF00FF000F0F0F0F0F0F0F0F0000000000000046, .toi64U opA),
      (0x640123456789ABCDEFFEDCBA9876543210FF00FF00FF00FF000F0F0F0F0F0F0F0F0000000000000046, .tosignedU opA),
      (0x650123456789ABCDEFFEDCBA9876543210FF00FF00FF00FF000F0F0F0F0F0F0F0F0000000000000046, .fitss64U opA),
      (0x660123456789ABCDEFFEDCBA9876543210FF00FF00FF00FF000F0F0F0F0F0F0F0F0000000000000046, .fitsu64U opA)] = true := by decide +kernel

/-- Group 6 of the signed engine (R60, R62): `REQ` words written out field by field, the unread fields
filled too (R65). -/
theorem test_decode_Convert_Signed :
    decodesTo [
      (0xE00123456789ABCDEFFEDCBA9876543210FF00FF00FF00FF000F0F0F0F0F0F0F0F0000000000000046, .fromu64I opN),
      (0xE10123456789ABCDEFFEDCBA9876543210FF00FF00FF00FF000F0F0F0F0F0F0F0F0000000000000046, .fromi64I opN),
      (0xE20123456789ABCDEFFEDCBA9876543210FF00FF00FF00FF000F0F0F0F0F0F0F0F0000000000000046, .tou64I opA),
      (0xE30123456789ABCDEFFEDCBA9876543210FF00FF00FF00FF000F0F0F0F0F0F0F0F0000000000000046, .toi64I opA),
      (0xE40123456789ABCDEFFEDCBA9876543210FF00FF00FF00FF000F0F0F0F0F0F0F0F0000000000000046, .tounsignedI opA),
      (0xE50123456789ABCDEFFEDCBA9876543210FF00FF00FF00FF000F0F0F0F0F0F0F0F0000000000000046, .fitss64I opA),
      (0xE60123456789ABCDEFFEDCBA9876543210FF00FF00FF00FF000F0F0F0F0F0F0F0F0000000000000046, .fitsu64I opA),
      (0xE80123456789ABCDEFFEDCBA9876543210FF00FF00FF00FF000F0F0F0F0F0F0F0F0000000000000046, .isnegI opA),
      (0xE90123456789ABCDEFFEDCBA9876543210FF00FF00FF00FF000F0F0F0F0F0F0F0F0000000000000046, .isposI opA),
      (0xEA0123456789ABCDEFFEDCBA9876543210FF00FF00FF00FF000F0F0F0F0F0F0F0F0000000000000046, .signI opA)] = true := by decide +kernel

/-- R80's three examples, as the assembler encodes them. -/
theorem test_encode_R80_examples :
    (encode (.addU opA opB)).toNat =
      0x000123456789ABCDEFFEDCBA9876543210FF00FF00FF00FF000F0F0F0F0F0F0F0F0000000000000000 ∧
    (encode (.lshiftnI opA 70)).toNat =
      0xB10123456789ABCDEFFEDCBA9876543210000000000000000000000000000000000000000000000046 ∧
    (encode (.bitlen64 0x100)).toNat = 0x5100000000000000000000000000000000000000000000000000000000000000000000000000000100 := by
  decide +kernel

/-- R64: codes where the other type has an operation are reserved. -/
theorem test_no_aliases :
    [0x03, 0x28, 0x2D, 0x68, 0x6A, 0xD0, 0xD1, 0x7F, 0xFF].all (fun op =>
      decide (decodeTableWord 328 (op * 2 ^ 320) = none)) = true := by decide +kernel

/-! ### Results -/

/-- E1, E2, E3, E5, E6 of 95_test_vectors section 1, request word to response word. -/
theorem test_source_examples :
    ([(0x000000000000000000FFFFFFFFFFFFFFFF000000000000000000000000000000010000000000000000,
        0x000000000000000010000000000000000000000000000000000000000000000000000000000000000),
      (0x41000000000000000100000000000000000000000000000000000000000000FFFF0000000000000000,
        0x000000000000000000001000100010001000000000000000000000000000000010000000000000000),
      (0x8280000000000000000000000000000000000000000000000000000000000000000000000000000000,
        0x080000000000000000000000000000000000000000000000000000000000000000000000000000000),
      (0x400000000000000000FFFFFFFFFFFFFFFF0000000000000000FFFFFFFFFFFFFFFF0000000000000000,
        0x0FFFFFFFFFFFFFFFE0000000000000001000000000000000000000000000000000000000000000000),
      (0x4100000000000000000000000000000001000000000000000000000000000000000000000000000000,
        0x100000000000000000000000000000000000000000000000000000000000000000000000000000000),
      (0xC100000000000000000000000000000001000000000000000000000000000000000000000000000000,
        0x100000000000000000000000000000000000000000000000000000000000000000000000000000000)] :
      List (Nat × Nat)).all (fun row =>
        decide ((stepFrom State.reset row.1).map (fun r => (responseWord r).toNat) = some row.2)) =
      true := by decide +kernel

/-- 95_test_vectors section 2, group 0, unsigned engine. -/
theorem test_vectors_AddSub_Unsigned :
    responds [
      ({ OP := 0x00, A := 0x123456789ABCDEFFEDCBA9876543210, B := 0xF0F0F0F00F0F0F0F00FF00FF00FF00FF }, { Z := 0xF214365798BADCFEFFDBBB977753330F }),
      ({ OP := 0x00, A := 0x123456789ABCDEFFEDCBA9876543210, B := 0x1 }, { Z := 0x123456789ABCDEFFEDCBA9876543211 }),
      ({ OP := 0x01, A := 0xF0F0F0F00F0F0F0F00FF00FF00FF00FF, B := 0x123456789ABCDEFFEDCBA9876543210 }, { Z := 0xEFCDAB888563411F022246668AAACEEF }),
      ({ OP := 0x01, A := 0x123456789ABCDEFFEDCBA9876543210, B := 0x123456789ABCDEFFEDCBA9876543210 }, {}),
      ({ OP := 0x02, A := 0x1 }, { Z := 0xFFFFFFFFFFFFFFFFFFFFFFFFFFFFFFFF }),
      ({ OP := 0x02, A := 0xFFFFFFFFFFFFFFFFFFFFFFFFFFFFFFFF }, { Z := 0x1 })] = true := by decide +kernel

/-- 95_test_vectors section 2, group 0, signed engine. -/
theorem test_vectors_AddSub_Signed :
    responds [
      ({ OP := 0x80, A := 0x123456789ABCDEFFEDCBA9876543210, B := 0xF0F0F0F00F0F0F0F00FF00FF00FF00FF }, { Z := 0xF214365798BADCFEFFDBBB977753330F }),
      ({ OP := 0x80, A := 0x7FFFFFFFFFFFFFFFFFFFFFFFFFFFFFFF, B := 0x1 }, { Z := 0x80000000000000000000000000000000 }),
      ({ OP := 0x81, A := 0x80000000000000000000000000000000, B := 0x1 }, { Z := 0x7FFFFFFFFFFFFFFFFFFFFFFFFFFFFFFF }),
      ({ OP := 0x81, A := 0x7FFFFFFFFFFFFFFFFFFFFFFFFFFFFFFF, B := 0xFFFFFFFFFFFFFFFFFFFFFFFFFFFFFFFF }, { Z := 0x80000000000000000000000000000000 }),
      ({ OP := 0x82, A := 0xFFFFFFFFFFFFFFFFFFFFFFFFFFFFFFF9 }, { Z := 0x7 }),
      ({ OP := 0x82, A := 0x7FFFFFFFFFFFFFFFFFFFFFFFFFFFFFFF }, { Z := 0x80000000000000000000000000000001 }),
      ({ OP := 0x83, A := 0xFFFFFFFFFFFFFFFFFFFFFFFFFFFFFFFB }, { Z := 0x5 }),
      ({ OP := 0x83, A := 0x7FFFFFFFFFFFFFFFFFFFFFFFFFFFFFFF }, { Z := 0x7FFFFFFFFFFFFFFFFFFFFFFFFFFFFFFF })] = true := by decide +kernel

/-- 95_test_vectors section 2, group 1, unsigned engine. -/
theorem test_vectors_Bitwise_Unsigned :
    responds [
      ({ OP := 0x10, A := 0xF0F0F0F0F0F0F0F000FF00FF00FF00FF, B := 0xFF00FF00FF00FF000F0F0F0F0F0F0F0F }, { Z := 0xF000F000F000F000000F000F000F000F }),
      ({ OP := 0x10, A := 0x123456789ABCDEFFEDCBA9876543210, B := 0xFFFFFFFFFFFFFFFFFFFFFFFFFFF00000 }, { Z := 0x123456789ABCDEFFEDCBA9876500000 }),
      ({ OP := 0x11, A := 0xF0F0F0F0F0F0F0F000FF00FF00FF00FF, B := 0xFF00FF00FF00FF000F0F0F0F0F0F0F0F }, { Z := 0xF000F000F000F000F000F000F000F0 }),
      ({ OP := 0x11, A := 0xF0F0F0F0F0F0F0F000FF00FF00FF00FF, B := 0xF0F0F0F0F0F0F0F000FF00FF00FF00FF }, {}),
      ({ OP := 0x12, A := 0xF0F0F0F0F0F0F0F000FF00FF00FF00FF, B := 0xFF00FF00FF00FF000F0F0F0F0F0F0F0F }, { Z := 0xFFF0FFF0FFF0FFF00FFF0FFF0FFF0FFF }),
      ({ OP := 0x12, A := 0x123456789ABCDEFFEDCBA98765, B := 0xFFFFFFFFFFFFFFFFFFFFFFFFFFF00000 }, { Z := 0xFFFFFFFFFFFFFFFFFFFFFFFFFFF98765 }),
      ({ OP := 0x13, A := 0xF0F0F0F0F0F0F0F000FF00FF00FF00FF, B := 0xFF00FF00FF00FF000F0F0F0F0F0F0F0F }, { Z := 0xF000F000F000FF000F000F000F000 }),
      ({ OP := 0x13, A := 0x123456789ABCDEFFEDCBA98765, B := 0xFFFFFFFFFFFFFFFFFFFFFFFFFFF00000 }, { Z := 0x6789A }),
      ({ OP := 0x14, A := 0xF0F0F0F0F0F0F0F000FF00FF00FF00FF, B := 0xFF00FF00FF00FF000F0F0F0F0F0F0F0F }, { Z := 0xFFF0FFF0FFF0FFFFFF0FFF0FFF0FFF0 }),
      ({ OP := 0x14, A := 0xFFFFFFFFFFFFFFFFFFFFFFFFFFFFFFFF, B := 0xFFFFFFFFFFFFFFFFFFFFFFFFFFFFFFFF }, {}),
      ({ OP := 0x15, A := 0xF0F0F0F0F0F0F0F000FF00FF00FF00FF, B := 0xFF00FF00FF00FF000F0F0F0F0F0F0F0F }, { Z := 0xFF00FF00FF00FF00FF00FF00FF00FF0 }),
      ({ OP := 0x15, A := 0xF0F0F0F0F0F0F0F000FF00FF00FF00FF, B := 0xFFFFFFFFFFFFFFFFFFFFFFFFFFFFFFFF }, { Z := 0xF0F0F0F0F0F0F0FFF00FF00FF00FF00 }),
      ({ OP := 0x16, A := 0xF0F0F0F0F0F0F0F000FF00FF00FF00FF, B := 0xFF00FF00FF00FF000F0F0F0F0F0F0F0F }, { Z := 0xF00FF00FF00FF00FF00FF00FF00FF00F }),
      ({ OP := 0x16, A := 0xF0F0F0F0F0F0F0F000FF00FF00FF00FF, B := 0xF0F0F0F0F0F0F0F000FF00FF00FF00FF }, { Z := 0xFFFFFFFFFFFFFFFFFFFFFFFFFFFFFFFF }),
      ({ OP := 0x17, A := 0xF0F0F0F0F0F0F0F000FF00FF00FF00FF }, { Z := 0xF0F0F0F0F0F0F0FFF00FF00FF00FF00 }),
      ({ OP := 0x17, A := 0xFFFFFFFFFFFFFFFFFFFFFFFFFFF98765 }, { Z := 0x6789A })] = true := by decide +kernel

/-- 95_test_vectors section 2, group 1, signed engine. -/
theorem test_vectors_Bitwise_Signed :
    responds [
      ({ OP := 0x90, A := 0xF0F0F0F0F0F0F0F000FF00FF00FF00FF, B := 0xFF00FF00FF00FF000F0F0F0F0F0F0F0F }, { Z := 0xF000F000F000F000000F000F000F000F }),
      ({ OP := 0x91, A := 0xF0F0F0F0F0F0F0F000FF00FF00FF00FF, B := 0xFF00FF00FF00FF000F0F0F0F0F0F0F0F }, { Z := 0xF000F000F000F000F000F000F000F0 }),
      ({ OP := 0x92, A := 0xF0F0F0F0F0F0F0F000FF00FF00FF00FF, B := 0xFF00FF00FF00FF000F0F0F0F0F0F0F0F }, { Z := 0xFFF0FFF0FFF0FFF00FFF0FFF0FFF0FFF }),
      ({ OP := 0x93, A := 0xF0F0F0F0F0F0F0F000FF00FF00FF00FF, B := 0xFF00FF00FF00FF000F0F0F0F0F0F0F0F }, { Z := 0xF000F000F000FF000F000F000F000 }),
      ({ OP := 0x94, A := 0xF0F0F0F0F0F0F0F000FF00FF00FF00FF, B := 0xFF00FF00FF00FF000F0F0F0F0F0F0F0F }, { Z := 0xFFF0FFF0FFF0FFFFFF0FFF0FFF0FFF0 }),
      ({ OP := 0x95, A := 0xF0F0F0F0F0F0F0F000FF00FF00FF00FF, B := 0xFF00FF00FF00FF000F0F0F0F0F0F0F0F }, { Z := 0xFF00FF00FF00FF00FF00FF00FF00FF0 }),
      ({ OP := 0x96, A := 0xF0F0F0F0F0F0F0F000FF00FF00FF00FF, B := 0xFF00FF00FF00FF000F0F0F0F0F0F0F0F }, { Z := 0xF00FF00FF00FF00FF00FF00FF00FF00F }),
      ({ OP := 0x97, A := 0xF0F0F0F0F0F0F0F000FF00FF00FF00FF }, { Z := 0xF0F0F0F0F0F0F0FFF00FF00FF00FF00 }),
      ({ OP := 0x97, A := 0x80000000000000000000000000000000 }, { Z := 0x7FFFFFFFFFFFFFFFFFFFFFFFFFFFFFFF })] = true := by decide +kernel

/-- 95_test_vectors section 2, group 2, unsigned engine. -/
theorem test_vectors_Compare_Unsigned :
    responds [
      ({ OP := 0x20, A := 0x50000000000000001, B := 0x50000000000000002 }, { S := 0xFFFFFFFFFFFFFFFF }),
      ({ OP := 0x20, A := 0x80000000000000000000000000000000, B := 0x7FFFFFFFFFFFFFFFFFFFFFFFFFFFFFFF }, { S := 0x1 }),
      ({ OP := 0x21, A := 0x50000000000000001, B := 0x50000000000000002 }, {}),
      ({ OP := 0x21, A := 0x123456789ABCDEFFEDCBA9876543210, B := 0x123456789ABCDEFFEDCBA9876543210 }, { S := 0x1 }),
      ({ OP := 0x22, A := 0x50000000000000001, B := 0x50000000000000002 }, { S := 0x1 }),
      ({ OP := 0x22, A := 0x80000000000000000000000000000000, B := 0x7FFFFFFFFFFFFFFFFFFFFFFFFFFFFFFF }, {}),
      ({ OP := 0x23, A := 0x50000000000000001, B := 0x50000000000000002 }, { S := 0x1 }),
      ({ OP := 0x23, A := 0x80000000000000000000000000000000, B := 0x7FFFFFFFFFFFFFFFFFFFFFFFFFFFFFFF }, {}),
      ({ OP := 0x24, A := 0x50000000000000001, B := 0x50000000000000002 }, {}),
      ({ OP := 0x24, A := 0x80000000000000000000000000000000, B := 0x7FFFFFFFFFFFFFFFFFFFFFFFFFFFFFFF }, { S := 0x1 }),
      ({ OP := 0x25, A := 0x50000000000000001, B := 0x50000000000000002 }, {}),
      ({ OP := 0x25, A := 0x80000000000000000000000000000000, B := 0x7FFFFFFFFFFFFFFFFFFFFFFFFFFFFFFF }, { S := 0x1 })] = true := by decide +kernel

/-- 95_test_vectors section 2, group 2, signed engine. -/
theorem test_vectors_Compare_Signed :
    responds [
      ({ OP := 0xA0, A := 0x50000000000000001, B := 0x50000000000000002 }, { S := 0xFFFFFFFFFFFFFFFF }),
      ({ OP := 0xA0, A := 0xFFFFFFFFFFFFFFFFFFFFFFFFFFFFFFFD, B := 0xFFFFFFFFFFFFFFFFFFFFFFFFFFFFFFFB }, { S := 0x1 }),
      ({ OP := 0xA1, A := 0x50000000000000001, B := 0x50000000000000002 }, {}),
      ({ OP := 0xA1, A := 0x123456789ABCDEFFEDCBA9876543210, B := 0x123456789ABCDEFFEDCBA9876543210 }, { S := 0x1 }),
      ({ OP := 0xA2, A := 0x50000000000000001, B := 0x50000000000000002 }, { S := 0x1 }),
      ({ OP := 0xA2, A := 0xFFFFFFFFFFFFFFFFFFFFFFFFFFFFFFFD, B := 0xFFFFFFFFFFFFFFFFFFFFFFFFFFFFFFFB }, {}),
      ({ OP := 0xA3, A := 0x50000000000000001, B := 0x50000000000000002 }, { S := 0x1 }),
      ({ OP := 0xA3, A := 0xFFFFFFFFFFFFFFFFFFFFFFFFFFFFFFFD, B := 0xFFFFFFFFFFFFFFFFFFFFFFFFFFFFFFFB }, {}),
      ({ OP := 0xA4, A := 0x50000000000000001, B := 0x50000000000000002 }, {}),
      ({ OP := 0xA4, A := 0xFFFFFFFFFFFFFFFFFFFFFFFFFFFFFFFD, B := 0xFFFFFFFFFFFFFFFFFFFFFFFFFFFFFFFB }, { S := 0x1 }),
      ({ OP := 0xA5, A := 0x50000000000000001, B := 0x50000000000000002 }, {}),
      ({ OP := 0xA5, A := 0xFFFFFFFFFFFFFFFFFFFFFFFFFFFFFFFD, B := 0xFFFFFFFFFFFFFFFFFFFFFFFFFFFFFFFB }, { S := 0x1 }),
      ({ OP := 0xA8, A := 0x50000000000000001, B := 0x50000000000000002 }, { S := 0xFFFFFFFFFFFFFFFF }),
      ({ OP := 0xA8, A := 0x80000000000000000000000000000000, B := 0x7FFFFFFFFFFFFFFFFFFFFFFFFFFFFFFF }, { S := 0x1 }),
      ({ OP := 0xA9, A := 0x50000000000000001, B := 0x50000000000000002 }, {}),
      ({ OP := 0xA9, A := 0x123456789ABCDEFFEDCBA9876543210, B := 0x123456789ABCDEFFEDCBA9876543210 }, { S := 0x1 }),
      ({ OP := 0xAA, A := 0x50000000000000001, B := 0x50000000000000002 }, { S := 0x1 }),
      ({ OP := 0xAA, A := 0x80000000000000000000000000000000, B := 0x7FFFFFFFFFFFFFFFFFFFFFFFFFFFFFFF }, {}),
      ({ OP := 0xAB, A := 0x50000000000000001, B := 0x50000000000000002 }, { S := 0x1 }),
      ({ OP := 0xAB, A := 0x80000000000000000000000000000000, B := 0x7FFFFFFFFFFFFFFFFFFFFFFFFFFFFFFF }, {}),
      ({ OP := 0xAC, A := 0x50000000000000001, B := 0x50000000000000002 }, {}),
      ({ OP := 0xAC, A := 0x80000000000000000000000000000000, B := 0x7FFFFFFFFFFFFFFFFFFFFFFFFFFFFFFF }, { S := 0x1 }),
      ({ OP := 0xAD, A := 0x50000000000000001, B := 0x50000000000000002 }, {}),
      ({ OP := 0xAD, A := 0x80000000000000000000000000000000, B := 0x7FFFFFFFFFFFFFFFFFFFFFFFFFFFFFFF }, { S := 0x1 })] = true := by decide +kernel

/-- 95_test_vectors section 2, group 3, unsigned engine. -/
theorem test_vectors_Shift_Unsigned :
    responds [
      ({ OP := 0x30, A := 0x80000000000000018000000000000001 }, { Z := 0x30000000000000002 }),
      ({ OP := 0x30 }, {}),
      ({ OP := 0x31, A := 0x123456789ABCDEFFEDCBA98765, N := 0x14 }, { Z := 0x123456789ABCDEFFEDCBA9876500000 }),
      ({ OP := 0x31, A := 0x80000000000000018000000000000001, N := 0x1 }, { Z := 0x30000000000000002 }),
      ({ OP := 0x32, A := 0x80000000000000018000000000000001 }, { Z := 0x4000000000000000C000000000000000 }),
      ({ OP := 0x33, A := 0x123456789ABCDEFFEDCBA9876543210, N := 0x14 }, { Z := 0x123456789ABCDEFFEDCBA98765 }),
      ({ OP := 0x33, A := 0x80000000000000018000000000000001, N := 0x1 }, { Z := 0x4000000000000000C000000000000000 }),
      ({ OP := 0x34, A := 0x80000000000000018000000000000001, B := 0x10000000000000004 }, {}),
      ({ OP := 0x34, A := 0x80000000000000018000000000000001, B := 0x4 }, { Z := 0x8000000000000001800000000000000 })] = true := by decide +kernel

/-- 95_test_vectors section 2, group 3, signed engine. -/
theorem test_vectors_Shift_Signed :
    responds [
      ({ OP := 0xB0, A := 0x80000000000000018000000000000001 }, { Z := 0x30000000000000002 }),
      ({ OP := 0xB1, A := 0x80000000000000018000000000000001, N := 0x4 }, { Z := 0x180000000000000010 }),
      ({ OP := 0xB1, A := 0x80000000000000018000000000000001, N := 0x80 }, {}),
      ({ OP := 0xB2, A := 0x123456789ABCDEFFEDCBA9876543210 }, { Z := 0x91A2B3C4D5E6F7FF6E5D4C3B2A1908 }),
      ({ OP := 0xB2, A := 0x80000000000000018000000000000001 }, { Z := 0xC000000000000000C000000000000000 }),
      ({ OP := 0xB3, A := 0x123456789ABCDEFFEDCBA9876543210, N := 0x4 }, { Z := 0x123456789ABCDEFFEDCBA987654321 }),
      ({ OP := 0xB3, A := 0x123456789ABCDEFFEDCBA9876543210, N := 0x40 }, { Z := 0x123456789ABCDEF }),
      ({ OP := 0xB4, A := 0x123456789ABCDEFFEDCBA9876543210, B := 0x10000000000000000 }, {}),
      ({ OP := 0xB4, A := 0x123456789ABCDEFFEDCBA9876543210, B := 0x8 }, { Z := 0x123456789ABCDEFFEDCBA98765432 })] = true := by decide +kernel

/-- 95_test_vectors section 2, group 4, unsigned engine. -/
theorem test_vectors_MulDiv_Unsigned :
    responds [
      ({ OP := 0x40, A := 0x123456789ABCDEFFEDCBA9876543210, B := 0xF0F0F0F00F0F0F0F00FF00FF00FF00FF }, { Z := 0x110EEEECBCBA9A98778999ABBBCDDDF0 }),
      ({ OP := 0x40, A := 0x1, B := 0x123456789ABCDEFFEDCBA9876543210 }, { Z := 0x123456789ABCDEFFEDCBA9876543210 }),
      ({ OP := 0x41, A := 0x10000000000000007, B := 0x8000000000000001 }, { Z := 0x2, R := 0x5 }),
      ({ OP := 0x41, A := 0xDEADBEEF00000000BAADF00D, B := 0x1234 }, { Z := 0xC3BA568529F8875D270D5, R := 0xAC9 }),
      ({ OP := 0x42, A := 0x10000000000000000, B := 0xFFFF }, { Z := 0x1000100010001 }),
      ({ OP := 0x42, A := 0x5, B := 0x7 }, {}),
      ({ OP := 0x43, A := 0x10000000000000000, B := 0xFFFF }, { Z := 0x1 }),
      ({ OP := 0x43, A := 0x5, B := 0x7 }, { Z := 0x5 })] = true := by decide +kernel

/-- 95_test_vectors section 2, group 4, signed engine. -/
theorem test_vectors_MulDiv_Signed :
    responds [
      ({ OP := 0xC0, A := 0x123456789ABCDEFFEDCBA9876543210, B := 0xF0F0F0F00F0F0F0F00FF00FF00FF00FF }, { Z := 0x110EEEECBCBA9A98778999ABBBCDDDF0 }),
      ({ OP := 0xC0, A := 0xFFFFFFFFFFFFFFFFFFFFFFFFFFFFFFFD, B := 0x5 }, { Z := 0xFFFFFFFFFFFFFFFFFFFFFFFFFFFFFFF1 }),
      ({ OP := 0xC1, A := 0xFFFFFFFFFFFFFFFFFFFFFFFFFFFFFFF9, B := 0x2 }, { Z := 0xFFFFFFFFFFFFFFFFFFFFFFFFFFFFFFFD, R := 0xFFFFFFFFFFFFFFFFFFFFFFFFFFFFFFFF }),
      ({ OP := 0xC1, A := 0x7, B := 0xFFFFFFFFFFFFFFFFFFFFFFFFFFFFFFFE }, { Z := 0xFFFFFFFFFFFFFFFFFFFFFFFFFFFFFFFD, R := 0x1 }),
      ({ OP := 0xC2, A := 0xFFFFFFFFFFFFFFFFFFFFFFFFFFFFFFF9, B := 0x2 }, { Z := 0xFFFFFFFFFFFFFFFFFFFFFFFFFFFFFFFD }),
      ({ OP := 0xC2, A := 0x80000000000000000000000000000000, B := 0xFFFFFFFFFFFFFFFFFFFFFFFFFFFFFFFF }, { Z := 0x80000000000000000000000000000000 }),
      ({ OP := 0xC3, A := 0xFFFFFFFFFFFFFFFFFFFFFFFFFFFFFFF9, B := 0x2 }, { Z := 0xFFFFFFFFFFFFFFFFFFFFFFFFFFFFFFFF }),
      ({ OP := 0xC3, A := 0x7, B := 0xFFFFFFFFFFFFFFFFFFFFFFFFFFFFFFFE }, { Z := 0x1 })] = true := by decide +kernel

/-- 95_test_vectors section 2, group 5, unsigned engine. -/
theorem test_vectors_BitLength_Unsigned :
    responds [
      ({ OP := 0x50, A := 0x1FFFFFFFFFFFFFFFF }, { S := 0x41 }),
      ({ OP := 0x50, A := 0xDEADBEEF00000000BAADF00D }, { S := 0x60 }),
      ({ OP := 0x51, N := 0x1 }, { S := 0x1 }),
      ({ OP := 0x51, N := 0x2 }, { S := 0x2 })] = true := by decide +kernel

/-- 95_test_vectors section 2, group 6, unsigned engine. -/
theorem test_vectors_Convert_Unsigned :
    responds [
      ({ OP := 0x60, N := 0x7FFFFFFFFFFFFFFF }, { Z := 0x7FFFFFFFFFFFFFFF }),
      ({ OP := 0x60, N := 0x8000000000000000 }, { Z := 0x8000000000000000 }),
      ({ OP := 0x61, N := 0x5 }, { Z := 0x5 }),
      ({ OP := 0x61, N := 0x7FFFFFFFFFFFFFFF }, { Z := 0x7FFFFFFFFFFFFFFF }),
      ({ OP := 0x62, A := 0x123456789ABCDEFFEDCBA9876543210 }, { S := 0xFEDCBA9876543210 }),
      ({ OP := 0x62, A := 0x2A }, { S := 0x2A }),
      ({ OP := 0x63, A := 0x123456789ABCDEFFEDCBA9876543210 }, { S := 0xFEDCBA9876543210 }),
      ({ OP := 0x63, A := 0xFFFFFFFFFFFFFFFFFFFFFFFFFFFFFFFF }, { S := 0xFFFFFFFFFFFFFFFF }),
      ({ OP := 0x64, A := 0x123456789ABCDEFFEDCBA9876543210 }, { Z := 0x123456789ABCDEFFEDCBA9876543210 }),
      ({ OP := 0x64, A := 0xFFFFFFFFFFFFFFFFFFFFFFFFFFFFFFFF }, { Z := 0xFFFFFFFFFFFFFFFFFFFFFFFFFFFFFFFF }),
      ({ OP := 0x65, A := 0x7FFFFFFFFFFFFFFF }, { S := 0x1 }),
      ({ OP := 0x65, A := 0x8000000000000000 }, {}),
      ({ OP := 0x66, A := 0xFFFFFFFFFFFFFFFE0000000000000001 }, {}),
      ({ OP := 0x66, A := 0x7FFFFFFFFFFFFFFF }, { S := 0x1 })] = true := by decide +kernel

/-- 95_test_vectors section 2, group 6, signed engine. -/
theorem test_vectors_Convert_Signed :
    responds [
      ({ OP := 0xE0, N := 0xFFFFFFFFFFFFFFFF }, { Z := 0xFFFFFFFFFFFFFFFF }),
      ({ OP := 0xE0, N := 0x8000000000000000 }, { Z := 0x8000000000000000 }),
      ({ OP := 0xE1, N := 0xFFFFFFFFFFFFFFFF }, { Z := 0xFFFFFFFFFFFFFFFFFFFFFFFFFFFFFFFF }),
      ({ OP := 0xE1, N := 0xFFFFFFFFFFFFFFF9 }, { Z := 0xFFFFFFFFFFFFFFFFFFFFFFFFFFFFFFF9 }),
      ({ OP := 0xE2, A := 0xFFFFFFFFFFFFFFFFFFFFFFFFFFFFFFF9 }, { S := 0xFFFFFFFFFFFFFFF9 }),
      ({ OP := 0xE3, A := 0xFFFFFFFFFFFFFFFFFFFFFFFFFFFFFFF9 }, { S := 0xFFFFFFFFFFFFFFF9 }),
      ({ OP := 0xE3, A := 0xFFFFFFFFFFFFFFFFFFFFFFFFFFFFFFFD }, { S := 0xFFFFFFFFFFFFFFFD }),
      ({ OP := 0xE4, A := 0xFFFFFFFFFFFFFFFFFFFFFFFFFFFFFFF9 }, { Z := 0xFFFFFFFFFFFFFFFFFFFFFFFFFFFFFFF9 }),
      ({ OP := 0xE4, A := 0x80000000000000000000000000000000 }, { Z := 0x80000000000000000000000000000000 }),
      ({ OP := 0xE5, A := 0xFFFFFFFFFFFFFFFF8000000000000000 }, { S := 0x1 }),
      ({ OP := 0xE5, A := 0xFFFFFFFFFFFFFFFF7FFFFFFFFFFFFFFF }, {}),
      ({ OP := 0xE6, A := 0xFFFFFFFFFFFFFFFF8000000000000000 }, {}),
      ({ OP := 0xE6, A := 0x7FFFFFFFFFFFFFFF }, { S := 0x1 }),
      ({ OP := 0xE8, A := 0x7FFFFFFFFFFFFFFFFFFFFFFFFFFFFFFF }, {}),
      ({ OP := 0xE8, A := 0xFFFFFFFFFFFFFFFFFFFFFFFFFFFFFFFF }, { S := 0x1 }),
      ({ OP := 0xE9, A := 0x7FFFFFFFFFFFFFFFFFFFFFFFFFFFFFFF }, { S := 0x1 }),
      ({ OP := 0xE9, A := 0xFFFFFFFFFFFFFFFFFFFFFFFFFFFFFFFF }, {}),
      ({ OP := 0xEA, A := 0x7FFFFFFFFFFFFFFFFFFFFFFFFFFFFFFF }, { S := 0x1 }),
      ({ OP := 0xEA, A := 0xFFFFFFFFFFFFFFFFFFFFFFFFFFFFFFFF }, { S := 0xFFFFFFFFFFFFFFFF })] = true := by decide +kernel



/-! ### Working registers -/

/-- 95_test_vectors section 4.1: the accumulator after steps 0, 1, 2 and 3. -/
theorem test_trace_multiplier :
    (List.range 5).map (fun k => (mulLoop k 0xFFFFFFFFFFFFFFFF 0xB (mulLoad {})).ACC) =
      [0, 0xFFFFFFFFFFFFFFFF, 0x2FFFFFFFFFFFFFFFD, 0x2FFFFFFFFFFFFFFFD, 0xAFFFFFFFFFFFFFFF5] := by
  decide +kernel

/-- 95_test_vectors section 4.2, first trace: the registers after each of the five iterations. -/
theorem test_trace_divider :
    (List.range 6).map (fun k =>
      let r := divLoop k (divLoad 100 7 4 {})
      (r.CNT.toNat, r.DV.toNat, r.Q.toNat, r.REM.toNat)) =
      [(5, 0x70, 0, 100), (4, 0x38, 0, 0x64), (3, 0x1C, 1, 0x2C), (2, 0xE, 3, 0x10), (1, 7, 7, 2),
        (0, 3, 14, 2)] := by decide +kernel

/-- 95_test_vectors section 4.4: `X` and `CNTB` after each test. -/
theorem test_trace_bit_length :
    ([lenLoad 0xDEADBEEFBAADF00D {}, lenLevel 32 (lenLoad 0xDEADBEEFBAADF00D {}),
      lenLevel 16 (lenLevel 32 (lenLoad 0xDEADBEEFBAADF00D {})), lenRun 0xDEADBEEFBAADF00D {},
      lenRun 0x1234 {}] : List LenRegs) =
      [⟨0xDEADBEEFBAADF00D, 0⟩, ⟨0xDEADBEEF, 32⟩, ⟨0xDEAD, 48⟩, ⟨0xDE, 56⟩, ⟨0x12, 8⟩] := by
  decide +kernel

/-- 95_test_vectors section 4.3: the flags and magnitudes of both columns. -/
theorem test_trace_signed_wrapper :
    signLoad (-7) 2 {} = ⟨.negative, .positive, 7, 2⟩ ∧
    signLoad SMIN ONES {} = ⟨.negative, .negative, SMIN, ONE⟩ := by decide +kernel

/-! ### The host's sequences -/

/-- PRG3 of 95_test_vectors section 3, lines 1, 3 and 4: the division by the computed zero ends the
sequence. -/
theorem test_sequence_PRG3 :
    abortedAt (runLines 1 {} State.reset
      [.transaction 0x01 [.wide 0] [.wide (.literal 5 7), .wide (.literal 5 7)],
        .transaction 0x41 [.wide 2, .wide 3] [.wide (.literal 5 7), .wide (.temp 0)],
        .transaction 0x00 [.wide 4] [.wide (.temp 2), .wide (.temp 3)]]) = some 2 := by decide +kernel

/-- PRG6 of 95_test_vectors section 3, line 3 and its two pseudo-instructions. -/
theorem test_sequence_PRG6 :
    finishedWords (runLines 1 {} State.reset
      [.transaction 0x40 [.wide 1] [.wide (.literal 0 MAXU64), .wide (.literal 0 MAXU64)],
        .hi 0 (.temp 1), .lo 1 (.temp 1)]) = some [(1, 1), (0, 0xFFFFFFFFFFFFFFFE)] := by
  decide +kernel

/-! ### Witnesses for the statements' hypotheses -/

/-- StepRunsDecodedInstruction, BusyCoreTakesNoRequest: a busy core with a legal request. -/
theorem witness_busy_core :
    (busy { OP := 0x00, A := 1, B := 2 }).reqReady = false ∧
    (busy { OP := 0x00, A := 1, B := 2 }).req.legal = true ∧
    resetNext (busy { OP := 0x00, A := 1, B := 2 }).inputs = none ∧
    decodeRequest (busy { OP := 0x00, A := 1, B := 2 }).req = .ok (.addU 1 2) := by decide +kernel

/-- StepRunsDecodedInstruction, second clause, with a `RST` pending as well: the placed word runs. -/
theorem witness_placed_word :
    decodeTableWord 328 (0x51 * 2 ^ 320 + 5) = some (.bitlen64 5) ∧
    stepFrom { State.reset with inputs := [.reset] } (0x51 * 2 ^ 320 + 5) = some { S := 3 } := by
  decide +kernel

/-- A ready core with a request waiting: TransferSamplesTheRequest, with nothing behind it and with a
`RST` behind it. -/
theorem witness_transfer :
    (∃ s : State, ∃ w, s.reqReady = true ∧ s.inputs = .request w :: [] ∧ decode w = .ok (.addU 1 2) ∧
      resetNext [] = none) ∧
    ∃ s : State, ∃ w, s.reqReady = true ∧ s.inputs = .request w :: [.reset] ∧
      decode w = .ok (.addU 1 2) :=
  ⟨⟨{ State.reset with inputs := [.request (requestWord { OP := 0x00, A := 1, B := 2 })] }, _, rfl, rfl,
      by decide +kernel, rfl⟩,
    ⟨{ State.reset with inputs := [.request (requestWord { OP := 0x00, A := 1, B := 2 }), .reset] }, _,
      rfl, rfl, by decide +kernel⟩⟩

/-- OneResponsePerRequest: the first and the last legal code. -/
theorem witness_ready_core :
    State.reset.reqReady = true ∧ ({ OP := 0x00 } : Request).legal = true ∧
    ({ OP := 0xEA } : Request).legal = true := by decide

/-- ResetAbandonsAndReadies: `RST` on a busy core whose request another core answers. -/
theorem witness_reset_event :
    ∃ s u : State, s.inputs = .reset :: [] ∧ s.reqReady = false ∧ u.reqReady = true ∧
      Responds u s.req { Z := 3 } :=
  ⟨{ busy { OP := 0x00, A := 1, B := 2 } with inputs := [.reset] }, State.reset, rfl, rfl, rfl,
    responds_of_gets (by decide +kernel)⟩

/-- EveryStepKeepsInv: the reset state has the invariant and steps; a busy core has it and steps. -/
theorem witness_inv :
    Inv State.reset ∧ Inv (busy { OP := 0x41, A := 1 }) ∧
    (∃ t, step State.reset = .next t) ∧ ∃ t, step (busy { OP := 0x41, A := 1 }) = .next t :=
  ⟨⟨nofun, nofun⟩, ⟨fun _ => ⟨by decide, rfl⟩, nofun⟩,
    ⟨_, rfl⟩, ⟨_, rfl⟩⟩

/-- OperandsChangeOnlyByTransfer: a step that transfers, and one that does not. -/
theorem witness_steps :
    (∃ s t : State, step s = .next t ∧ t.req = s.req) ∧
    ∃ s t : State, step s = .next t ∧ t.req ≠ s.req :=
  ⟨⟨State.reset, _, rfl, rfl⟩,
    ⟨{ State.reset with inputs := [.request (requestWord { OP := 0x02, A := 1 })] }, _, rfl,
      by decide +kernel⟩⟩

/-- EncodeInvertsDecode: a word with zero unread fields that decodes. -/
theorem witness_canonical_word :
    decode (requestWord { OP := 0x02, A := 9 }) = .ok (.negU 9) ∧
    (requestOfWord (requestWord { OP := 0x02, A := 9 })).unreadZero = true := by decide +kernel

/-- ReservedCodesAreRefused: a ready core offered a reserved code, by port and by sequence. -/
theorem witness_reserved :
    (∃ s : State, ∃ w, s.reqReady = true ∧ s.inputs = .request w :: [] ∧
      opLegal (requestOfWord w).OP = false) ∧
    (opLegal 0x03 = false ∧ opGroup 0x70 = 7 ∧ State.reset.reqReady = true) :=
  ⟨⟨{ State.reset with inputs := [.request (requestWord { OP := 0x7F })] }, _, rfl, rfl,
      by decide +kernel⟩, by decide⟩

/-- UnreadFieldsAreIgnored: two requests that differ in all a one-operand operation does not read. -/
theorem witness_unread_fields :
    State.reset.reqReady = true ∧ opReadsB 0x02 = false ∧ opReadsN 0x02 = false ∧
    Responds State.reset { OP := 0x02, A := 1, B := 5, N := 7 } { Z := ONES } ∧
    Responds State.reset { OP := 0x02, A := 1 } { Z := ONES } :=
  ⟨rfl, by decide, by decide, responds_of_gets (by decide +kernel),
    responds_of_gets (by decide +kernel)⟩

/-- ResponseDependsOnRequestOnly, UndrivenFieldsAreZero, ErrExactlyOnZeroDivisor: two ready cores that
differ in their registers, and responses of both kinds. -/
theorem witness_two_cores :
    ∃ s : State, s.reqReady = true ∧ s.work ≠ State.reset.work ∧ s.rsp ≠ State.reset.rsp ∧
      Responds s { OP := 0x41, A := 7, B := 2 } { Z := 3, R := 1 } ∧
      Responds State.reset { OP := 0x41, A := 7, B := 2 } { Z := 3, R := 1 } ∧
      Responds s { OP := 0xC3, A := 7 } { ERR := 1 } ∧
      Responds s { OP := 0x20, A := 7 } { S := 1 } :=
  ⟨{ State.reset with work := { mul := { ACC := 5 } }, rsp := { S := 9 }, freeIx := 4 }, rfl,
    by decide, by decide, responds_of_gets (by decide +kernel), responds_of_gets (by decide +kernel),
    responds_of_gets (by decide +kernel), responds_of_gets (by decide +kernel)⟩

/-- TransactionsCommute, ErrIsNotSticky: a transaction that faults, then one that does not. -/
theorem witness_two_transactions :
    ∃ t, State.reset.transact { OP := 0x42, A := 9 } = .next t ∧ t.rspValid = true ∧
      t.rsp = { ERR := 1 } ∧ Responds t { OP := 0x42, A := 9, B := 4 } { Z := 2 } :=
  ⟨_, rfl, rfl, by decide +kernel, responds_of_gets (by decide +kernel)⟩

/-- CoresShareNothing: two cores, each with a step to take (the core's own step), and an index past the
end. -/
theorem witness_cores :
    (0 ≠ 1) ∧ ([State.reset, State.reset][1]? = some State.reset ∧ ∃ t, step State.reset = .next t) ∧
    (∃ one, stepCore 0 [State.reset, State.reset] = .next one ∧
      ∃ both, stepCore 1 one = .next both) ∧
    ∃ same, stepCore 5 [State.reset, State.reset] = .next same :=
  ⟨by decide, ⟨rfl, _, rfl⟩, ⟨_, rfl, _, rfl⟩, ⟨_, rfl⟩⟩

/-- SequenceStopsAtFirstErr: lines that finish, then a division whose divisor they made zero. -/
theorem witness_sequence :
    ∃ env' s' q, runLines 1 {} State.reset [.mk 0 (.hex 0) (.hex 0)] = .finished env' s' ∧
      lineRequest env' 0x43 [.wide (.named .ONE), .wide (.temp 0)] = some q ∧
      opMayErr 0x43 = true ∧ q.B = ZERO :=
  ⟨_, _, _, rfl, rfl, by decide, by decide⟩

/-- PseudoInstructionsIssueNothing: sources of each kind that have a value, temporaries among them. -/
theorem witness_sources :
    (WordSource.hex 5).value {} = some 5 ∧ (WordSource.temp 1).value { words := [(1, 6)] } = some 6 ∧
    (WideSource.temp 2).value { wides := [(2, SMIN)] } = some SMIN ∧
    (WideSource.named .SMAX).value {} = some SMAX := by decide

/-- SignedAbsoluteValue, AdderAndNegationLaws, AbsReadingsDifferAtSminOnly: operands of either sign, `SMIN`
and not `SMIN`. -/
theorem witness_signs :
    SMAX.getLsbD 127 = false ∧ SMIN.getLsbD 127 = true ∧ ONES.getLsbD 127 = true ∧
    SMAX ≠ SMIN ∧ ONES ≠ SMIN := by decide

/-- UnsignedDivision, SignedDivision, DivisionIdentity: nonzero divisors, the wrapped quotient and its
neighbour. -/
theorem witness_divisors :
    ONE ≠ ZERO ∧ ONES ≠ ZERO ∧ SMIN ≠ ZERO ∧ (SMIN = SMIN ∧ ONES = ONES) ∧
    ¬ (SMIN = SMIN ∧ ONE = ONES) ∧ State.reset.reqReady = true := by decide

/-- DivisionLoopInvariant: the shortest and the longest loop (`n = 0` and `n = 127`). -/
theorem witness_division_loop :
    (bitlen128Unit ONE {}).1 = (bitlen128Unit ONE {}).1 + 0 ∧
    (bitlen128Unit SMIN {}).1 = (bitlen128Unit ONE {}).1 + 127 ∧
    DivInv ONE ONE 0 1 (divLoad ONE ONE 0 {}) ∧ DivInv ONE ONE 0 0 (divStep (divLoad ONE ONE 0 {})) := by
  unfold DivInv
  decide +kernel

/-- SignedWrapperNormalises: an unsigned division that answers, on operands of both signs. -/
theorem witness_unsigned_engine :
    ∃ v w', udivmodUnit true .serial ONES SMIN { sgn := signLoad ONES SMIN {} } = some (v, w') :=
  ⟨_, _, rfl⟩

/-- BitLengthSearchAndTable: a search that counts nothing, one that counts, and the table's ends. -/
theorem witness_bit_length_search :
    (lenRun 0xFF {}).CNTB = 0 ∧ (lenRun MININT64 {}).CNTB ≠ 0 ∧ (1 : BitVec 8) ≠ 0 ∧ lut8 1 = 1 ∧
    lut8 0xFF = 8 ∧ lut8 0x80 = 8 ∧ lut8 0x7F = 7 := by decide +kernel

/-- BitLengths, ConversionLaws, SignedWordWidening, LegalExactlyWhenDecodes: inputs on both sides of each
clause. -/
theorem witness_values :
    (0 : Word).toNat = 0 ∧ MININT64.toNat ≠ 0 ∧ ZERO.toNat = 0 ∧ SMIN.toNat ≠ 0 ∧
    fitsS64U SMAX = false ∧ fitsS64U ONE = true ∧ MAXU64 = MAXU64 ∧
    (0x50 : BitVec 8).getLsbD 7 = false := by decide +kernel

end Sys2Proof.Tests
end

section
/-! SUPPORT. The whole of what one step can do, that a response is the request's own, and the
statements of 10_state: OperandsChangeOnlyByTransfer and ResponseDependsOnRequestOnly. -/

namespace Sys2Proof.Machine

/-! ### What a step can do -/

/-- A request that decodes has a legal code (R62, R69). -/
theorem legal_of_decodeRequest {q : Request} {i : Instr} (h : decodeRequest q = .ok i) :
    q.legal = true := by
  rcases decodeRequest_cases q with ⟨form, hl, -⟩ | ⟨-, hd⟩
  · rw [Request.legal, opLegal_eq_isSome, hl, Option.isSome_some]
  · rw [h] at hd
    cases hd

/-- `accept` goes on only by the transfer of a request that decodes (R333). -/
theorem State.eq_transfer_of_accept {s t : State} {w : BitVec 328} (h : s.accept w = .next t) :
    (∃ i, decode w = .ok i) ∧ t = s.transfer (requestOfWord w) := by
  rcases State.accept_cases s w with ⟨i, hd, ha⟩ | ⟨op, -, ha⟩
  · rw [ha] at h
    cases h
    exact ⟨⟨i, hd⟩, rfl⟩
  · rw [ha] at h
    cases h

/-- `complete` goes on only by the meaning of the sampled request's instruction (R335). -/
theorem State.exec_of_complete {s t : State} (h : s.complete = .next t) :
    ∃ i, decodeRequest s.req = .ok i ∧ exec i s = .next t := by
  unfold State.complete at h
  split at h
  · next i hi => exact ⟨i, hi, h⟩
  · cases h

/-- A ready core that goes on, with no `RST` next, takes a request that decodes (R333), or has nothing to
take and withdraws its response (log 4). -/
theorem State.takeInput_cases {s t : State} (hr : resetNext s.inputs = none)
    (h : s.takeInput = .next t) :
    (∃ w rest i, s.inputs = .request w :: rest ∧ decode w = .ok i ∧
      t = State.transfer { s with inputs := rest } (requestOfWord w)) ∨
    (∃ rest, (s.inputs = .quiet :: rest ∨ s.inputs = [] ∧ rest = []) ∧
      t = State.withdraw { s with inputs := rest }) := by
  unfold State.takeInput at h
  split at h
  · next w rest hi =>
    obtain ⟨⟨i, hd⟩, rfl⟩ := State.eq_transfer_of_accept h
    exact .inl ⟨w, rest, i, hi, hd, rfl⟩
  · next rest hi =>
    cases h
    exact .inr ⟨rest, .inl hi, rfl⟩
  · next rest hi =>
    rw [resetNext_eq_some.mpr hi] at hr
    cases hr
  · next hi =>
    cases h
    exact .inr ⟨[], .inr ⟨hi, rfl⟩, by simp [State.withdraw, hi]⟩

/-- All that a step can do when it does not stop: `RST` (R330), the transfer of a request that decodes
(R333), a moment with nothing to take, or the answer to the request in progress (R334). -/
theorem step_cases {s t : State} (h : step s = .next t) :
    (∃ rest, s.inputs = .reset :: rest ∧ t = State.applyReset { s with inputs := rest }) ∨
    (∃ w rest i, s.reqReady = true ∧ s.inputs = .request w :: rest ∧ decode w = .ok i ∧
      t = State.transfer { s with inputs := rest } (requestOfWord w)) ∨
    (∃ rest, s.reqReady = true ∧ (s.inputs = .quiet :: rest ∨ s.inputs = [] ∧ rest = []) ∧
      t = State.withdraw { s with inputs := rest }) ∨
    (∃ i, s.reqReady = false ∧ resetNext s.inputs = none ∧ decodeRequest s.req = .ok i ∧
      exec i s = .next t) := by
  unfold step at h
  split at h
  · next rest hr =>
    cases h
    exact .inl ⟨rest, resetNext_eq_some.mp hr, rfl⟩
  · next hr =>
    split at h
    · next hs =>
      rcases State.takeInput_cases hr h with ⟨w, rest, i, hi, hd, ht⟩ | ⟨rest, hi, ht⟩
      · exact .inr (.inl ⟨w, rest, i, hs, hi, hd, ht⟩)
      · exact .inr (.inr (.inl ⟨rest, hs, hi, ht⟩))
    · next hs =>
      obtain ⟨i, hd, he⟩ := State.exec_of_complete h
      exact .inr (.inr (.inr ⟨i, Bool.eq_false_iff.mpr hs, hr, hd, he⟩))

/-- No instruction writes the sampled operands (R22). -/
theorem req_of_exec {i : Instr} {s t : State} (h : exec i s = .next t) : t.req = s.req := by
  obtain ⟨t', he, -, -, -, hreq, -⟩ := answers_result i s
  rw [h] at he
  cases he
  exact hreq

/-- Settles O8: of the four things a step can do (`step_cases`), only the transfer writes `req`. -/
theorem operandsChangeOnlyByTransfer : Obligations.OperandsChangeOnlyByTransfer := by
  intro s t h
  rcases step_cases h with
    ⟨rest, -, rfl⟩ | ⟨w, rest, i, hs, hi, hd, rfl⟩ | ⟨rest, -, -, rfl⟩ | ⟨i, -, -, -, he⟩
  · exact .inl rfl
  · exact .inr ⟨w, rest, hs, hi, rfl, legal_of_decodeRequest hd⟩
  · exact .inl rfl
  · exact .inl (req_of_exec he)

/-! ### What a response depends on -/

/-- Any two ready cores have the same responses to a request (R21). -/
theorem responds_congr {s s' : State} {q : Request} {r : Response} (hs : s.reqReady = true)
    (hs' : s'.reqReady = true) : Responds s q r ↔ Responds s' q r :=
  (responds_iff_result hs).trans (responds_iff_result hs').symm

/-- A core responds to a request in one way only. -/
theorem Responds.unique {s : State} {q : Request} {r r' : Response} (h : Responds s q r)
    (h' : Responds s q r') : r = r' := by
  obtain ⟨t, ht, -, rfl⟩ := h
  obtain ⟨t', ht', -, rfl⟩ := h'
  rw [ht] at ht'
  cases ht'
  rfl

/-- Settles O17: every ready core responds with the `result` of the decoded request, in which the core's
state does not occur (`responds_iff_result`). -/
theorem responseDependsOnRequestOnly : Obligations.ResponseDependsOnRequestOnly := by
  intro s s' q r r' hs hs' h
  have h' : Responds s' q r := (responds_congr hs hs').mp h
  exact ⟨h', h'.unique⟩

end Sys2Proof.Machine
end

section
/-! SUPPORT. What an instruction's meaning leaves behind, that every response fits its request, and the
statements of 20_memory: EveryStepKeepsInv and TransactionsCommute. -/

namespace Sys2Proof.Machine

/-! ### What a response leaves behind -/

/-- Whenever an instruction goes on, its response is valid and is its row of the table, the core is ready
and the request is still sampled (R333, R334). -/
theorem fields_of_exec {i : Instr} {s t : State} (h : exec i s = .next t) :
    t.rspValid = true ∧ t.rsp = result i ∧ t.reqReady = true ∧ t.req = s.req := by
  obtain ⟨t', he, hv, hr, hready, hreq, -⟩ := answers_result i s
  rw [h] at he
  cases he
  exact ⟨hv, hr, hready, hreq⟩

/-- A transaction of a ready core leaves the core ready (R334). -/
theorem State.reqReady_of_transact {s t : State} {q : Request} (hs : s.reqReady = true)
    (h : s.transact q = .next t) : t.reqReady = true := by
  rcases decodeRequest_cases q with ⟨form, -, hd⟩ | ⟨-, hd⟩
  · rw [State.transact_ok hs hd] at h
    obtain ⟨-, -, hready, -⟩ := fields_of_exec h
    exact hready
  · rw [State.transact_error hs hd] at h
    cases h

/-! ### Every response fits its request -/

section
variable {op : BitVec 8} {a b : Wide} {n : Word}

/-- An operation that drives `Z` and cannot raise may answer with any `Z`. -/
theorem responseFits_Z {z : Wide} (herr : opMayErr op = false) (hz : opWritesZ op = true) :
    ResponseFits ⟨op, a, b, n⟩ { Z := z } := by
  simp [ResponseFits, herr, hz]

/-- An operation that drives `S` and cannot raise may answer with any `S`. -/
theorem responseFits_S {v : Word} (herr : opMayErr op = false) (hv : opWritesS op = true) :
    ResponseFits ⟨op, a, b, n⟩ { S := v } := by
  simp [ResponseFits, herr, hv]

/-- A division by zero answers the fixed fault response (R303), any other division with `Z`, and with `R`
where it drives `R`. -/
theorem responseFits_division {z m : Wide} (herr : opMayErr op = true) (hz : opWritesZ op = true)
    (hm : opWritesR op = false → m = 0) :
    ResponseFits ⟨op, a, b, n⟩ (if b = ZERO then { ERR := 1 } else { Z := z, R := m }) := by
  by_cases hb : b = ZERO
  · simp [ResponseFits, herr, hb]
  · simpa [ResponseFits, hb, hz] using hm

end

/-- Every instruction's response fits the request that the encoder writes for it. -/
theorem responseFits_encodeRequest (i : Instr) : ResponseFits (encodeRequest i) (result i) := by
  cases i with
  | addU | subU | negU | andU | andnotU | orU | norU | nandU | xorU | xnorU | notU
  | lshiftU | lshiftnU | rshiftU | rshiftnU | rshiftvU | mulU | fromu64U | fromi64U | tosignedU
  | addI | subI | negI | absI | andI | andnotI | orI | norI | nandI | xorI | xnorI | notI
  | lshiftI | lshiftnI | rshiftI | rshiftnI | rshiftvI | mulI | fromu64I | fromi64I | tounsignedI =>
    exact responseFits_Z (by decide) (by decide)
  | cmpU | eqU | ltU | lteU | gtU | gteU | bitlenU | bitlen64 | tou64U | toi64U | fitss64U | fitsu64U
  | cmpI | eqI | ltI | lteI | gtI | gteI | abscmpI | abseqI | absltI | abslteI | absgtI | absgteI
  | tou64I | toi64I | fitss64I | fitsu64I | isnegI | isposI | signI =>
    exact responseFits_S (by decide) (by decide)
  | divmodU | divmodI =>
    exact responseFits_division (by decide) (by decide) fun h => absurd h (by decide)
  | divU | modU | divI | modI =>
    exact responseFits_division (by decide) (by decide) fun _ => rfl

/-- The operations that may raise read their divisor `B` (R62, R300). -/
theorem opReadsB_of_opMayErr {op : BitVec 8} (h : opMayErr op = true) : opReadsB op = true := by
  simp only [opMayErr, Bool.and_eq_true, decide_eq_true_eq] at h
  obtain ⟨hlegal, hgroup, -⟩ := h
  simp [opReadsB, hlegal, hgroup]

/-- What a response to `q` must look like does not depend on the fields that the operation does not read
(R65). -/
theorem responseFits_canonical {q : Request} {r : Response} :
    ResponseFits (canonical q) r ↔ ResponseFits q r := by
  have hB : opMayErr q.OP = true → (canonical q).B = q.B := fun h =>
    if_pos (opReadsB_of_opMayErr h)
  have herr : (opMayErr q.OP = true ∧ (canonical q).B = ZERO) ↔ (opMayErr q.OP = true ∧ q.B = ZERO) :=
    and_congr_right fun h => by rw [hB h]
  exact and_congr_left' (iff_congr Iff.rfl herr)

/-- The response to a request that decodes fits the request, whatever its unread fields hold. -/
theorem responseFits_of_decodeRequest {q : Request} {i : Instr} (h : decodeRequest q = .ok i) :
    ResponseFits q (result i) := by
  rw [← responseFits_canonical, ← encodeRequest_of_decodeRequest h]
  exact responseFits_encodeRequest i

/-! ### The handshake's invariant -/

/-- A ready core with no valid response has the invariant. -/
theorem inv_of_ready {s : State} (hs : s.reqReady = true) (hv : s.rspValid = false) : Inv s :=
  ⟨fun h => by simp [hs] at h, fun h => by simp [hv] at h⟩

/-- A core has the invariant after the transfer of a legal request (R69, R333). -/
theorem inv_transfer {s : State} {q : Request} (hq : q.legal = true) : Inv (s.transfer q) :=
  ⟨fun _ => ⟨hq, rfl⟩, nofun⟩

/-- A core has the invariant after its request is answered (R47). -/
theorem inv_of_exec {i : Instr} {s t : State} (hd : decodeRequest s.req = .ok i)
    (h : exec i s = .next t) : Inv t := by
  obtain ⟨-, hr, hready, hreq⟩ := fields_of_exec h
  refine ⟨fun hbusy => by simp [hready] at hbusy, fun _ => ?_⟩
  rw [hreq, hr]
  exact responseFits_of_decodeRequest hd

/-- Settles O7: each of the four things a step can do (`step_cases`) establishes the invariant. Only the
answer leaves a valid response, and it is the `result` of the sampled request, which fits it. -/
theorem everyStepKeepsInv : Obligations.EveryStepKeepsInv := by
  intro s t _ h
  rcases step_cases h with
    ⟨rest, -, rfl⟩ | ⟨w, rest, i, -, -, hd, rfl⟩ | ⟨rest, hs, -, rfl⟩ | ⟨i, -, -, hd, he⟩
  · exact inv_of_ready rfl rfl
  · exact inv_transfer (legal_of_decodeRequest hd)
  · exact inv_of_ready hs rfl
  · exact inv_of_exec hd he

/-! ### Transactions in either order -/

/-- Settles O18: each transaction leaves a ready core (`State.reqReady_of_transact`), and any two ready
cores respond alike (`responds_congr`). -/
theorem transactionsCommute : Obligations.TransactionsCommute := by
  intro s t q q' r r' hs ht hv hr h'
  have h : Responds s q r := ⟨t, ht, hv, hr⟩
  obtain ⟨u, hu, huv, hur⟩ := (responds_congr (State.reqReady_of_transact hs ht) hs).mp h'
  exact ⟨u, hu, huv, hur, (responds_congr hs (State.reqReady_of_transact hs hu)).mp h⟩

end Sys2Proof.Machine
end

section
/-! SUPPORT. The request and response words bit by bit, the decoder as the inverse of the encoder, reserved
codes, and the statements of 30_encoding: DecodeInvertsEncode, RequestFieldPositions,
ResponseFieldPositions, EncodeInvertsDecode, ReservedCodesAreRefused, LegalExactlyWhenDecodes,
UnreadFieldsAreIgnored, UndrivenFieldsAreZero, WrittenWordsDecode and PseudoInstructionsIssueNothing. -/

namespace Sys2Proof.Machine

/-! ### The words and their fields (R60, R63) -/

section
variable {width : Nat}

/-- A bit of the high half of a 128-bit field that begins at bit `start` of a word. -/
theorem getLsbD_hiWord_extractLsb' (w : BitVec width) (start i : Nat) :
    (hiWord (w.extractLsb' start 128)).getLsbD i =
      (decide (i < 64) && w.getLsbD (start + 64 + i)) := by
  rw [getLsbD_hiWord, BitVec.getLsbD_extractLsb', Nat.add_assoc]
  by_cases hi : i < 64
  · simp [hi, show 64 + i < 128 by omega]
  · simp [hi]

/-- A bit of the low half of a 128-bit field that begins at bit `start` of a word. -/
theorem getLsbD_loWord_extractLsb' (w : BitVec width) (start i : Nat) :
    (loWord (w.extractLsb' start 128)).getLsbD i =
      (decide (i < 64) && w.getLsbD (start + i)) := by
  rw [getLsbD_loWord, BitVec.getLsbD_extractLsb']
  by_cases hi : i < 64
  · simp [hi, show i < 128 by omega]
  · simp [hi]

/-- A word whose last 320 bits are two 128-bit fields and a 64-bit one is nothing but its four
fields. -/
theorem append_extractLsb'_fields (w : BitVec (width + 128 + 128 + 64)) :
    w.extractLsb' 320 width ++ w.extractLsb' 192 128 ++ w.extractLsb' 64 128 ++
      w.extractLsb' 0 64 = w := by
  rw [BitVec.extractLsb'_append_extractLsb'_eq_extractLsb' (by rfl),
    BitVec.extractLsb'_append_extractLsb'_eq_extractLsb' (by rfl),
    BitVec.extractLsb'_append_extractLsb'_eq_extractLsb' (by rfl), BitVec.extractLsb'_eq_self]

end

/-- A `REQ` word is nothing but its fields (R60). -/
theorem requestWord_requestOfWord (w : BitVec 328) : requestWord (requestOfWord w) = w :=
  append_extractLsb'_fields (width := 8) w

/-- A `RSP` word is nothing but its fields (R63). -/
theorem responseWord_responseOfWord (w : BitVec 321) : responseWord (responseOfWord w) = w :=
  append_extractLsb'_fields (width := 1) w

/-- A 321-bit word read back field by field (R63). -/
theorem responseOfWord_responseWord (r : Response) : responseOfWord (responseWord r) = r := by
  obtain ⟨err, z, rem, s⟩ := r
  simp only [responseOfWord, responseWord, Response.mk.injEq]
  refine ⟨?err, ?z, ?rem, BitVec.extractLsb'_append_eq_right⟩
  case err =>
    rw [BitVec.extractLsb'_append_eq_of_le (by decide), BitVec.extractLsb'_append_eq_of_le (by decide)]
    exact BitVec.extractLsb'_append_eq_left
  case z =>
    rw [BitVec.extractLsb'_append_eq_of_le (by decide), BitVec.extractLsb'_append_eq_of_le (by decide)]
    exact BitVec.extractLsb'_append_eq_right
  case rem =>
    rw [BitVec.extractLsb'_append_eq_of_le (by decide)]
    exact BitVec.extractLsb'_append_eq_right

/-- Settles O10: `OP` and `N` are slices of the word, `A` and `B` are slices of which `hiWord` and `loWord`
are the halves; the two round trips are `requestOfWord_requestWord` and `requestWord_requestOfWord`. -/
theorem requestFieldPositions : Obligations.RequestFieldPositions := by
  refine ⟨fun w i => ⟨?op, ?aHi, ?aLo, ?bHi, ?bLo, ?n⟩, requestOfWord_requestWord,
    requestWord_requestOfWord⟩
  case op => exact BitVec.getLsbD_extractLsb' 320 8 w i
  case aHi => exact getLsbD_hiWord_extractLsb' w 192 i
  case aLo => exact getLsbD_loWord_extractLsb' w 192 i
  case bHi => exact getLsbD_hiWord_extractLsb' w 64 i
  case bLo => exact getLsbD_loWord_extractLsb' w 64 i
  case n => exact (BitVec.getLsbD_extractLsb' 0 64 w i).trans (by rw [Nat.zero_add])

/-- Settles O11: as for the request, with `Z` the one field whose halves are named. -/
theorem responseFieldPositions : Obligations.ResponseFieldPositions := by
  refine ⟨fun w i => ⟨?err, ?zHi, ?zLo, ?r, ?s⟩, responseOfWord_responseWord,
    responseWord_responseOfWord⟩
  case err => exact BitVec.getLsbD_extractLsb' 320 1 w i
  case zHi => exact getLsbD_hiWord_extractLsb' w 192 i
  case zLo => exact getLsbD_loWord_extractLsb' w 192 i
  case r => exact BitVec.getLsbD_extractLsb' 64 128 w i
  case s => exact (BitVec.getLsbD_extractLsb' 0 64 w i).trans (by rw [Nat.zero_add])

/-! ### Decoding and encoding (R62, R80) -/

/-- The row of the table that the code of an instruction finds builds the instruction again from the operands
that the encoder wrote. -/
theorem decodeRequest_encodeRequest (i : Instr) : decodeRequest (encodeRequest i) = .ok i := by
  cases i <;> rfl

/-- The decoder on an instruction's word. -/
theorem decode_encode (i : Instr) : decode (encode i) = .ok i := by
  rw [encode, decode_requestWord, decodeRequest_encodeRequest]

/-- Settles O12: `decode` is a left inverse of `encode`, which is therefore injective. -/
theorem decodeInvertsEncode : Obligations.DecodeInvertsEncode := by
  refine ⟨decode_encode, fun i j h => ?_⟩
  have hij : Except.ok i = Except.ok (ε := DecodeError) j := by
    rw [← decode_encode i, h, decode_encode]
  exact Except.ok.inj hij

/-- A request with zero in its unread fields is its own canonical form. -/
theorem canonical_of_unreadZero {q : Request} (h : q.unreadZero = true) : canonical q = q := by
  simp only [Request.unreadZero, Bool.and_eq_true, Bool.or_eq_true, decide_eq_true_eq] at h
  obtain ⟨⟨hA, hB⟩, hN⟩ := h
  rw [canonical, ite_eq_left_iff.mpr fun h => (hA.resolve_left h).symm,
    ite_eq_left_iff.mpr fun h => (hB.resolve_left h).symm,
    ite_eq_left_iff.mpr fun h => (hN.resolve_left h).symm]

/-- Settles O13: what a word decodes to encodes as the word's canonical request, which is the word's own
request when its unread fields are zero. -/
theorem encodeInvertsDecode : Obligations.EncodeInvertsDecode := by
  intro w i hd hz
  rw [encode, encodeRequest_of_decodeRequest hd, canonical_of_unreadZero hz, requestWord_requestOfWord]

/-- The decoder does not look at the fields that the operation does not read (R65). -/
theorem decodeRequest_canonical (q : Request) : decodeRequest (canonical q) = decodeRequest q := by
  rcases decodeRequest_cases q with ⟨form, -, hd⟩ | ⟨hl, hd⟩
  · rw [← encodeRequest_of_decodeRequest hd, decodeRequest_encodeRequest, hd]
  · rw [hd, decodeRequest, show (canonical q).OP = q.OP from rfl, hl]

/-- Requests with one code that agree on the fields it reads have one canonical form. -/
theorem canonical_congr {q q' : Request} (hOP : q.OP = q'.OP)
    (hA : opReadsA q.OP = true → q.A = q'.A) (hB : opReadsB q.OP = true → q.B = q'.B)
    (hN : opReadsN q.OP = true → q.N = q'.N) : canonical q = canonical q' := by
  rw [canonical, canonical, ← hOP, ite_congr rfl hA fun _ => rfl, ite_congr rfl hB fun _ => rfl,
    ite_congr rfl hN fun _ => rfl]

/-- Settles O16: both requests decode as their common canonical form does, and the response is the `result`
of the decoded instruction (`responds_iff_result`). -/
theorem unreadFieldsAreIgnored : Obligations.UnreadFieldsAreIgnored := by
  intro s q q' r hs hOP hA hB hN h
  have hdecode : decodeRequest q = decodeRequest q' := by
    rw [← decodeRequest_canonical q, canonical_congr hOP hA hB hN, decodeRequest_canonical]
  rw [responds_iff_result hs, hdecode] at h
  exact (responds_iff_result hs).mpr h

/-- The decoder on a word written out from its fields (R60). -/
theorem decode_append (op : BitVec 8) (a b : Wide) (n : Word) :
    decode (op ++ a ++ b ++ n) = decodeRequest ⟨op, a, b, n⟩ :=
  decode_requestWord ⟨op, a, b, n⟩

/-- Settles O9: each word is put together from fields, and the row of its code builds the instruction. -/
theorem writtenWordsDecode : Obligations.WrittenWordsDecode := by
  unfold Obligations.WrittenWordsDecode
  simp only [decode_append]
  exact ⟨rfl, rfl, rfl, rfl, rfl, rfl, rfl, rfl, rfl⟩

/-! ### Legal and reserved codes (R61, R62, R64, R69) -/

/-- A reserved code is refused by name (R69). -/
theorem decodeRequest_of_reserved {q : Request} (h : opLegal q.OP = false) :
    decodeRequest q = .error (.reservedOpcode q.OP) := by
  rcases decodeRequest_cases q with ⟨form, -, hd⟩ | ⟨-, hd⟩
  · have hlegal : opLegal q.OP = true := legal_of_decodeRequest hd
    simp [h] at hlegal
  · exact hd

/-- A request decodes exactly when its code is legal. -/
theorem decodeRequest_ok_iff_legal {q : Request} : (∃ i, decodeRequest q = .ok i) ↔ q.legal = true := by
  refine ⟨fun ⟨i, hd⟩ => legal_of_decodeRequest hd, fun h => ?_⟩
  rcases decodeRequest_cases q with ⟨form, -, hd⟩ | ⟨hl, -⟩
  · exact ⟨form q, hd⟩
  · rw [Request.legal, opLegal_eq_isSome, hl] at h
    cases h

/-- Settles O15: the first part is `decodeRequest_ok_iff_legal`; the second compares the two engines' codes,
128 pairs of them, with the list of R64. -/
theorem legalExactlyWhenDecodes : Obligations.LegalExactlyWhenDecodes :=
  ⟨fun _ => decodeRequest_ok_iff_legal, by decide +kernel⟩

/-- No code of group 7 is legal (R69). -/
theorem opLegal_of_opGroup_seven {op : BitVec 8} (h : opGroup op = 7) : opLegal op = false := by
  simp [opLegal, h]

/-- A ready core refuses a request with a reserved code at its transfer (R69). -/
theorem step_reserved {s : State} {w : BitVec 328} {rest : List HostInput} (hs : s.reqReady = true)
    (hi : s.inputs = .request w :: rest) (hw : opLegal (requestOfWord w).OP = false) :
    step s = .refused (.reservedOpcode (requestOfWord w).OP) := by
  have hd : decode w = .error (.reservedOpcode (requestOfWord w).OP) := decodeRequest_of_reserved hw
  simp [step, hi, resetNext, hs, State.takeInput, State.accept, hd]

/-- A line with a reserved code reads no source, so it makes a request only when it names none (log 18). -/
theorem lineRequest_of_reserved (env : Env) {op : BitVec 8} (sources : List Source)
    (h : opLegal op = false) :
    lineRequest env op sources = if sources = [] then some { OP := op } else none := by
  have hA : opReadsA op = false := by simp [opReadsA, h]
  have hB : opReadsB op = false := by simp [opReadsB, h]
  have hN : opReadsN op = false := by simp [opReadsN, h]
  cases sources <;> simp [lineRequest, hA, hB, hN, takeWide, takeWord]

/-- What a line with a reserved code does on a ready core. -/
theorem runLine_reserved (k : Nat) (env : Env) {s : State} {op : BitVec 8} (dests : List Destination)
    (sources : List Source) (hs : s.reqReady = true) (h : opLegal op = false) :
    runLine k env s (.transaction op dests sources) =
      if sources = [] then .refused k (.reservedOpcode op) else .illFormed k := by
  rw [runLine, lineRequest_of_reserved env sources h]
  by_cases hnil : sources = []
  · have ht : s.transact { OP := op } = .refused (.reservedOpcode op) :=
      State.transact_error hs (decodeRequest_of_reserved h)
    simp only [if_pos hnil, ht]
  · simp only [if_neg hnil]

/-- Settles O14: the count is over all 256 codes; each of the decoder, the ready core and the sequence
refuses by the lemma that says so of a reserved code. -/
theorem reservedCodesAreRefused : Obligations.ReservedCodesAreRefused := by
  refine ⟨by decide +kernel, fun _ => opLegal_of_opGroup_seven, fun _ => decodeRequest_of_reserved,
    fun _ _ _ => step_reserved, fun k env s op dests sources rest hs h => ?_⟩
  rw [runLines, runLine_reserved k env dests sources hs h]
  by_cases hnil : sources = []
  · exact .inl (by rw [if_pos hnil])
  · exact .inr (by rw [if_neg hnil])

/-! ### Undriven response fields (R66) -/

/-- Settles O24: the response to a request fits it (`responseFits_of_decodeRequest`), and `ERR` is one bit,
which is 1 only where the operation may raise. -/
theorem undrivenFieldsAreZero : Obligations.UndrivenFieldsAreZero := by
  intro s q r hs h
  obtain ⟨i, hd, rfl⟩ := (responds_iff_result hs).mp h
  obtain ⟨herr, hfault, hZ, hR, hS⟩ := responseFits_of_decodeRequest hd
  refine ⟨hZ, hR, hS, fun hno => ?_, hfault⟩
  refine (BitVec.eq_zero_or_eq_one _).resolve_right fun hone => ?_
  obtain ⟨hmay, -⟩ := herr.mp hone
  simp [hno] at hmay

/-! ### The host's pseudo-instructions (R81) -/

/-- Settles O26: each line is worked out on the values of its sources alone, and `pair`, `hiWord`, `loWord`
are inverse to each other. -/
theorem pseudoInstructionsIssueNothing : Obligations.PseudoInstructionsIssueNothing := by
  intro k d env s h l v wh wl x hh hl hv
  refine ⟨?mk, hiWord_pair wh wl, loWord_pair wh wl, ?hi, ?lo, pair_hiWord_loWord x⟩
  case mk => simp only [runLine, hh, hl]
  case hi => simp only [runLine, hv]
  case lo => simp only [runLine, hv]

end Sys2Proof.Machine
end

section
/-! SUPPORT. Adder, subtractor, negation and absolute value as arithmetic on the unsigned and the signed
values, and the statements of 40_add_sub_neg: UnsignedAddSubNeg, SignedAddSubNeg, SignedAbsoluteValue and
AdderAndNegationLaws. -/

namespace Sys2Proof.Machine

/-- A request that decodes to an instruction performs it, with its row of the table (R62). -/
theorem performs_result {op : BitVec 8} {a b : Wide} {n : Word} {i : Instr} (s : State)
    (hd : decodeRequest ⟨op, a, b, n⟩ = .ok i) : Performs op a b n i s (result i) :=
  ⟨hd, answers_result i s⟩

/-! ### Unsigned values (R100 to R102) -/

theorem toNat_add128 (x y : Wide) : (add128 x y).toNat = (x.toNat + y.toNat) % 2 ^ 128 := by
  rw [add128_eq, BitVec.toNat_add]

theorem toNat_sub128 (x y : Wide) :
    ((sub128 x y).toNat : Int) = ((x.toNat : Int) - y.toNat) % 2 ^ 128 := by
  have hy := y.isLt
  rw [sub128_eq, BitVec.toNat_sub]
  omega

theorem toNat_neg128 (x : Wide) : ((neg128 x).toNat : Int) = (-(x.toNat : Int)) % 2 ^ 128 := by
  rw [neg128, toNat_sub128, BitVec.toNat_zero, Int.natCast_zero, Int.zero_sub]

/-- Settles O27: each code's row of the table builds the instruction, whose `result` is the adder's, the
subtractor's or the negation's value. -/
theorem unsignedAddSubNeg : Obligations.UnsignedAddSubNeg := by
  intro s x y n
  exact ⟨add128 x y, sub128 x y, neg128 x,
    performs_result s rfl, performs_result s rfl, performs_result s rfl,
    toNat_add128 x y, toNat_sub128 x y, toNat_neg128 x⟩

/-! ### Signed values (R106 to R108) -/

theorem toInt_add128 (x y : Wide) : (add128 x y).toInt = (x.toInt + y.toInt).bmod (2 ^ 128) := by
  rw [add128_eq, BitVec.toInt_add]

theorem toInt_sub128 (x y : Wide) : (sub128 x y).toInt = (x.toInt - y.toInt).bmod (2 ^ 128) := by
  rw [sub128_eq, BitVec.toInt_sub]

theorem toInt_neg128 (x : Wide) : (neg128 x).toInt = (-x.toInt).bmod (2 ^ 128) := by
  rw [neg128_eq, BitVec.toInt_neg]

/-- Settles O28: both engines' rows of `result` hold the same value of the shared adder, subtractor or
negation. -/
theorem signedAddSubNeg : Obligations.SignedAddSubNeg := by
  intro s x y n
  exact ⟨add128 x y, sub128 x y, neg128 x,
    performs_result s rfl, answers_result (.addU x y) s,
    performs_result s rfl, answers_result (.subU x y) s,
    performs_result s rfl, answers_result (.negU x) s,
    toInt_add128 x y, toInt_sub128 x y, toInt_neg128 x⟩

/-! ### Negation and absolute value at `SMIN` (R102, R109) -/

/-- Only the two multiples of 2^127 are their own negation. -/
theorem neg128_eq_self_iff (x : Wide) : neg128 x = x ↔ x = ZERO ∨ x = SMIN := by
  have hx := x.isLt
  simp only [neg128_eq, ← BitVec.toNat_inj, BitVec.toNat_neg, BitVec.toNat_ofNat]
  omega

theorem toInt_neg128_of_ne_SMIN {x : Wide} (hx : x ≠ SMIN) : (neg128 x).toInt = -x.toInt := by
  rw [neg128_eq]
  exact BitVec.toInt_neg_of_ne_intMin hx

/-- The absolute value read unsigned is the magnitude, of `SMIN` too. -/
theorem toNat_abs128 (x : Wide) : (abs128 x).toNat = x.toInt.natAbs := toNat_absmag x

/-- Bit 127 of a value is its sign (R11). -/
theorem msb_eq_getLsbD_127 (x : Wide) : x.msb = x.getLsbD 127 := BitVec.msb_eq_getLsbD_last x

theorem abs128_of_nonneg {x : Wide} (h : x.getLsbD 127 = false) : abs128 x = x := by
  simp only [abs128, msb_eq_getLsbD_127, h, Bool.false_eq_true, if_false]

theorem abs128_of_neg {x : Wide} (h : x.getLsbD 127 = true) : abs128 x = neg128 x := by
  rw [abs128, msb_eq_getLsbD_127, if_pos h]

/-- A negative value and its magnitude make up 2^128. -/
theorem toNat_abs128_add_toNat {x : Wide} (h : x.getLsbD 127 = true) :
    (abs128 x).toNat + x.toNat = 2 ^ 128 := by
  have hpos : 0 < x.toNat := by
    have := BitVec.msb_eq_true_iff_two_mul_ge.mp ((msb_eq_getLsbD_127 x).trans h)
    omega
  have hneg := toNat_neg128 x
  have hx := x.isLt
  rw [abs128_of_neg h]
  omega

theorem abs128_SMIN : abs128 SMIN = SMIN :=
  (abs128_of_neg (by decide)).trans ((neg128_eq_self_iff SMIN).mpr (.inr rfl))

/-- Settles O29: `abs128` by the sign bit (`abs128_of_nonneg`, `toNat_abs128_add_toNat`), by magnitude and at
`SMIN`, which is its own negation. -/
theorem signedAbsoluteValue : Obligations.SignedAbsoluteValue := by
  intro s x y n
  refine ⟨abs128 x, performs_result s rfl, abs128_of_nonneg, toNat_abs128_add_toNat, toNat_abs128 x, ?_⟩
  rintro rfl
  exact abs128_SMIN

/-! ### The laws (R102, R110) -/

/-- Settles O30: adder, subtractor and negation are the operations of the ring of 128-bit vectors
(`add128_eq`, `sub128_eq`, `neg128_eq`); the last two laws are about negation at `ZERO` and `SMIN`. -/
theorem adderAndNegationLaws : Obligations.AdderAndNegationLaws := by
  intro x y z
  refine ⟨?comm, ?inverse, ?sub, ?assoc, ?identity, ?complement, neg128_eq_self_iff x,
    toInt_neg128_of_ne_SMIN⟩
  case comm => rw [add128_eq, add128_eq, BitVec.add_comm]
  case inverse => rw [add128_eq, neg128_eq, BitVec.add_right_neg]
  case sub => rw [sub128_eq, add128_eq, neg128_eq, BitVec.sub_eq_add_neg]
  case assoc => simp only [add128_eq, BitVec.add_assoc]
  case identity => rw [add128_eq, BitVec.add_zero]
  case complement => rw [neg128_eq, add128_eq, not128_eq, BitVec.neg_eq_not_add]

end Sys2Proof.Machine
end

section
/-! SUPPORT. The bitwise operations bit by bit and their relations to each other, and the statements of
41_bitwise: BasicBitwise, ComplementedBitwise and BitwiseLaws. -/

namespace Sys2Proof.Machine

/-! ### `AND`, `OR`, `XOR`, `NOT` (R112, R114, R117, R119) -/

@[simp] theorem getLsbD_and128 (x y : Wide) (i : Nat) :
    (and128 x y).getLsbD i = (x.getLsbD i && y.getLsbD i) := by
  rw [and128_eq, BitVec.getLsbD_and]

@[simp] theorem getLsbD_or128 (x y : Wide) (i : Nat) :
    (or128 x y).getLsbD i = (x.getLsbD i || y.getLsbD i) := by
  rw [or128_eq, BitVec.getLsbD_or]

@[simp] theorem getLsbD_xor128 (x y : Wide) (i : Nat) :
    (xor128 x y).getLsbD i = (x.getLsbD i != y.getLsbD i) := by
  rw [xor128_eq, BitVec.getLsbD_xor]

theorem getLsbD_not128 (x : Wide) {i : Nat} (hi : i < 128) : (not128 x).getLsbD i = !x.getLsbD i := by
  rw [not128_eq, BitVec.getLsbD_not, decide_eq_true hi, Bool.true_and]

/-- Settles O31: both engines' rows of `result` hold the value of the one operation, whose bits are those
of the lemmas above. -/
theorem basicBitwise : Obligations.BasicBitwise := by
  intro s x y n
  refine ⟨and128 x y, or128 x y, xor128 x y, not128 x,
    performs_result s rfl, performs_result s rfl, performs_result s rfl, performs_result s rfl,
    performs_result s rfl, performs_result s rfl, performs_result s rfl, performs_result s rfl, ?bits⟩
  case bits =>
    intro i hi
    exact ⟨getLsbD_and128 x y i, getLsbD_or128 x y i, getLsbD_xor128 x y i, getLsbD_not128 x hi⟩

/-! ### `ANDNOT`, `NOR`, `NAND`, `XNOR` (R113, R115, R116, R118; D20) -/

theorem andnot128_eq_and128_not128 (x y : Wide) : andnot128 x y = and128 x (not128 y) := by
  rw [andnot128_eq, and128_eq, not128_eq]

theorem nor128_eq_not128_or128 (x y : Wide) : nor128 x y = not128 (or128 x y) := by
  rw [nor128_eq, not128_eq, or128_eq]

theorem nand128_eq_not128_and128 (x y : Wide) : nand128 x y = not128 (and128 x y) := by
  rw [nand128_eq, not128_eq, and128_eq]

theorem xnor128_eq_not128_xor128 (x y : Wide) : xnor128 x y = not128 (xor128 x y) := by
  rw [xnor128_eq, not128_eq, xor128_eq]

/-- Settles O32: both engines' rows of `result` hold the value of the one operation, which is put together
from `AND`, `OR`, `XOR` and `NOT`, and so its bits are. -/
theorem complementedBitwise : Obligations.ComplementedBitwise := by
  intro s x y n
  refine ⟨andnot128 x y, nor128 x y, nand128 x y, xnor128 x y,
    performs_result s rfl, performs_result s rfl, performs_result s rfl, performs_result s rfl,
    performs_result s rfl, performs_result s rfl, performs_result s rfl, performs_result s rfl, ?bits⟩
  case bits =>
    intro i hi
    refine ⟨?andnot, ?nor, ?nand, ?xnor⟩
    case andnot => rw [andnot128_eq_and128_not128, getLsbD_and128, getLsbD_not128 y hi]
    case nor => rw [nor128_eq_not128_or128, getLsbD_not128 _ hi, getLsbD_or128]
    case nand => rw [nand128_eq_not128_and128, getLsbD_not128 _ hi, getLsbD_and128]
    case xnor => rw [xnor128_eq_not128_xor128, getLsbD_not128 _ hi, getLsbD_xor128, bne, Bool.not_not]

/-! ### The laws (R128) -/

/-- Settles O33: commutativity and De Morgan are those of 128-bit vectors (`and128_eq` and its like); the
last four are the relations that give the complemented operations their bits. -/
theorem bitwiseLaws : Obligations.BitwiseLaws := by
  intro x y
  refine ⟨?andComm, ?orComm, ?xorComm, ?notOr, ?notAnd, nor128_eq_not128_or128 x y,
    nand128_eq_not128_and128 x y, xnor128_eq_not128_xor128 x y, andnot128_eq_and128_not128 x y⟩
  case andComm => rw [and128_eq, and128_eq, BitVec.and_comm]
  case orComm => rw [or128_eq, or128_eq, BitVec.or_comm]
  case xorComm => rw [xor128_eq, xor128_eq, BitVec.xor_comm]
  case notOr => simp only [not128_eq, or128_eq, and128_eq, BitVec.not_or]
  case notAnd => simp only [not128_eq, and128_eq, or128_eq, BitVec.not_and]

end Sys2Proof.Machine
end

section
/-! SUPPORT. The three compares as the three-way result of two ordered values, their Boolean forms, the two
readings of the absolute-value compare, and the statements of 42_compare: UnsignedBooleanCompares,
SignedBooleanCompares, ThreeWayCompares, AbsoluteCompares, AbsReadingsDifferAtSminOnly and OrderLaws. -/

namespace Sys2Proof.Machine

/-! ### The three-way result (R130, D19) -/

/-- The three-way result for values of a linear order: -1 less, 0 equal, +1 greater (D19). The compares of
R130 to R132 are it, each on its own value of the operands. -/
def threeWay {α : Type} [LinearOrder α] (a b : α) : Int := if a < b then -1 else if b < a then 1 else 0

section
variable {α : Type} [LinearOrder α] {a b : α}

theorem threeWay_of_lt (h : a < b) : threeWay a b = -1 := if_pos h

theorem threeWay_of_gt (h : b < a) : threeWay a b = 1 := by rw [threeWay, if_neg h.asymm, if_pos h]

theorem threeWay_self (a : α) : threeWay a a = 0 := by simp only [threeWay, lt_irrefl, if_false]

theorem threeWay_eq_neg_one_iff : threeWay a b = -1 ↔ a < b := by
  rcases lt_trichotomy a b with h | rfl | h
  · simp [threeWay_of_lt h, h]
  · simp [threeWay_self]
  · simp [threeWay_of_gt h, h.asymm]

theorem threeWay_eq_zero_iff : threeWay a b = 0 ↔ a = b := by
  rcases lt_trichotomy a b with h | rfl | h
  · simp [threeWay_of_lt h, h.ne]
  · simp [threeWay_self]
  · simp [threeWay_of_gt h, h.ne']

theorem threeWay_eq_one_iff : threeWay a b = 1 ↔ b < a := by
  rcases lt_trichotomy a b with h | rfl | h
  · simp [threeWay_of_lt h, h.asymm]
  · simp [threeWay_self]
  · simp [threeWay_of_gt h, h]

theorem threeWay_trichotomy (a b : α) : threeWay a b = -1 ∨ threeWay a b = 0 ∨ threeWay a b = 1 := by
  simpa only [threeWay_eq_neg_one_iff, threeWay_eq_zero_iff, threeWay_eq_one_iff] using lt_trichotomy a b

theorem threeWay_swap (a b : α) : threeWay a b = -threeWay b a := by
  rcases lt_trichotomy a b with h | rfl | h
  · rw [threeWay_of_lt h, threeWay_of_gt h]
  · rw [threeWay_self, Int.neg_zero]
  · rw [threeWay_of_lt h, threeWay_of_gt h, Int.neg_neg]

theorem threeWay_natCast (a b : Nat) : threeWay (a : Int) (b : Int) = threeWay a b := by
  simp only [threeWay, Int.ofNat_lt]

end

/-! ### The three orders (R130 to R132) -/

theorem cmpu128_eq_threeWay (x y : Wide) : cmpu128 x y = threeWay x.toNat y.toNat := cmpu128_eq x y

theorem cmps128_eq_threeWay (x y : Wide) : cmps128 x y = threeWay x.toInt y.toInt := cmps128_eq x y

/-- Under the reading of D22 the absolute-value compare orders the magnitudes. -/
theorem cmpabs128_unsigned_eq_threeWay (x y : Wide) :
    cmpabs128 .unsigned x y = threeWay x.toInt.natAbs y.toInt.natAbs := by
  rw [cmpabs128, cmpu128_eq_threeWay, toNat_absmag, toNat_absmag]

/-- Under the other reading (U7) it orders the `ABS.I` results by signed value. -/
theorem cmpabs128_signed_eq_threeWay (x y : Wide) :
    cmpabs128 .signed x y = threeWay (abs128 x).toInt (abs128 y).toInt := by
  rw [cmpabs128, cmps128_eq_threeWay]

/-! ### The response on `S` (R67) -/

section
variable {α : Type} [LinearOrder α] {a b : α} {c : Int} (h : c = threeWay a b)
include h

theorem threeWayS_of_eq_threeWay :
    threeWayS c = if a < b then MAXU64 else if a = b then 0 else 1 := by
  subst h
  rcases lt_trichotomy a b with h | rfl | h
  · rw [threeWay_of_lt h, if_pos h]
    rfl
  · rw [threeWay_self, if_neg (lt_irrefl a), if_pos rfl]
    rfl
  · rw [threeWay_of_gt h, if_neg h.asymm, if_neg h.ne']
    rfl

theorem boolS_isEq_of_eq_threeWay : boolS (isEq c) = if a = b then 1 else 0 := by
  simp only [h, boolS, isEq, decide_eq_true_eq, threeWay_eq_zero_iff]

theorem boolS_isLt_of_eq_threeWay : boolS (isLt c) = if a < b then 1 else 0 := by
  simp only [h, boolS, isLt, decide_eq_true_eq, threeWay_eq_neg_one_iff]

theorem boolS_isLte_of_eq_threeWay : boolS (isLte c) = if a ≤ b then 1 else 0 := by
  simp only [h, boolS, isLte, decide_eq_true_eq, ne_eq, threeWay_eq_one_iff, not_lt]

theorem boolS_isGt_of_eq_threeWay : boolS (isGt c) = if a > b then 1 else 0 := by
  simp only [h, boolS, isGt, decide_eq_true_eq, threeWay_eq_one_iff, gt_iff_lt]

theorem boolS_isGte_of_eq_threeWay : boolS (isGte c) = if a ≥ b then 1 else 0 := by
  simp only [h, boolS, isGte, decide_eq_true_eq, ne_eq, threeWay_eq_neg_one_iff, not_lt, ge_iff_le]

end

/-- A request that decodes to an instruction whose row of the table is a value on `S` performs it with
that value. -/
theorem performs_S {op : BitVec 8} {a b : Wide} {n v w : Word} {i : Instr} (s : State)
    (hd : decodeRequest ⟨op, a, b, n⟩ = .ok i) (hr : result i = { S := v }) (hv : v = w) :
    Performs op a b n i s { S := w } := by
  rw [← hv, ← hr]
  exact performs_result s hd

/-- Settles O34: each code's row of `result` is a Boolean form of `cmpu128`, the three-way result of the
unsigned values. -/
theorem unsignedBooleanCompares : Obligations.UnsignedBooleanCompares := by
  intro s x y n
  have h := cmpu128_eq_threeWay x y
  exact ⟨performs_S s rfl rfl (boolS_isEq_of_eq_threeWay h),
    performs_S s rfl rfl (boolS_isLt_of_eq_threeWay h),
    performs_S s rfl rfl (boolS_isLte_of_eq_threeWay h),
    performs_S s rfl rfl (boolS_isGt_of_eq_threeWay h),
    performs_S s rfl rfl (boolS_isGte_of_eq_threeWay h)⟩

/-- Settles O35: each code's row of `result` is a Boolean form of `cmps128`, the three-way result of the
signed values. -/
theorem signedBooleanCompares : Obligations.SignedBooleanCompares := by
  intro s x y n
  have h := cmps128_eq_threeWay x y
  exact ⟨performs_S s rfl rfl (boolS_isEq_of_eq_threeWay h),
    performs_S s rfl rfl (boolS_isLt_of_eq_threeWay h),
    performs_S s rfl rfl (boolS_isLte_of_eq_threeWay h),
    performs_S s rfl rfl (boolS_isGt_of_eq_threeWay h),
    performs_S s rfl rfl (boolS_isGte_of_eq_threeWay h)⟩

/-- Settles O36: the three-way result itself, -1 as all ones on `S`. -/
theorem threeWayCompares : Obligations.ThreeWayCompares := by
  intro s x y n
  exact ⟨performs_S s rfl rfl (threeWayS_of_eq_threeWay (cmpu128_eq_threeWay x y)),
    performs_S s rfl rfl (threeWayS_of_eq_threeWay (cmps128_eq_threeWay x y))⟩

/-- Settles O37: `ABSCMP_READING` stands at the unsigned reading, which is the three-way result of the
magnitudes. -/
theorem absoluteCompares : Obligations.AbsoluteCompares := by
  intro s x y n
  have h : cmpabs128 Config.abscmpReading x y = threeWay x.toInt.natAbs y.toInt.natAbs :=
    cmpabs128_unsigned_eq_threeWay x y
  exact ⟨performs_S s rfl rfl (threeWayS_of_eq_threeWay h),
    performs_S s rfl rfl (boolS_isEq_of_eq_threeWay h),
    performs_S s rfl rfl (boolS_isLt_of_eq_threeWay h),
    performs_S s rfl rfl (boolS_isLte_of_eq_threeWay h),
    performs_S s rfl rfl (boolS_isGt_of_eq_threeWay h),
    performs_S s rfl rfl (boolS_isGte_of_eq_threeWay h)⟩

/-! ### The two readings at `SMIN` (R132, U7) -/

/-- Only `SMIN` has the magnitude 2^127. -/
theorem natAbs_toInt_lt_of_ne_SMIN {x : Wide} (hx : x ≠ SMIN) : x.toInt.natAbs < 2 ^ 127 := by
  have hlt := x.isLt
  rw [Ne, ← BitVec.toNat_inj, BitVec.toNat_ofNat] at hx
  rw [BitVec.toInt_eq_toNat_cond]
  split <;> omega

/-- The absolute value read signed is the magnitude too, except of `SMIN`. -/
theorem toInt_abs128_of_ne_SMIN {x : Wide} (hx : x ≠ SMIN) : (abs128 x).toInt = x.toInt.natAbs := by
  have hlt := natAbs_toInt_lt_of_ne_SMIN hx
  rw [← toNat_abs128] at hlt ⊢
  exact BitVec.toInt_eq_toNat_of_lt (by omega)

/-- Settles O38: away from `SMIN` both readings order the same magnitudes; `SMIN` has magnitude 2^127 and
its `ABS.I` result is negative. -/
theorem absReadingsDifferAtSminOnly : Obligations.AbsReadingsDifferAtSminOnly := by
  refine ⟨fun x y hx hy => ?agree, fun y hy => ⟨?above, ?below⟩⟩
  case agree =>
    rw [cmpabs128_unsigned_eq_threeWay, cmpabs128_signed_eq_threeWay, toInt_abs128_of_ne_SMIN hx,
      toInt_abs128_of_ne_SMIN hy, threeWay_natCast]
  case above =>
    rw [cmpabs128_unsigned_eq_threeWay]
    exact threeWay_of_gt (natAbs_toInt_lt_of_ne_SMIN hy)
  case below =>
    rw [cmpabs128_signed_eq_threeWay, abs128_SMIN, toInt_abs128_of_ne_SMIN hy]
    have hneg : SMIN.toInt < 0 := by decide
    exact threeWay_of_lt (by omega)

/-! ### The laws of the orders (R151) -/

/-- Each of the three orders has the three results only, and mirrors them when its operands are swapped. -/
theorem compare_trichotomy_and_swap {cmp : Wide → Wide → Int}
    (hcmp : cmp = cmpu128 ∨ cmp = cmps128 ∨ cmp = cmpabs128 .unsigned) (x y : Wide) :
    (cmp x y = -1 ∨ cmp x y = 0 ∨ cmp x y = 1) ∧ cmp x y = -cmp y x := by
  rcases hcmp with rfl | rfl | rfl
  · simp only [cmpu128_eq_threeWay]
    exact ⟨threeWay_trichotomy _ _, threeWay_swap _ _⟩
  · simp only [cmps128_eq_threeWay]
    exact ⟨threeWay_trichotomy _ _, threeWay_swap _ _⟩
  · simp only [cmpabs128_unsigned_eq_threeWay]
    exact ⟨threeWay_trichotomy _ _, threeWay_swap _ _⟩

/-- Two values have one magnitude exactly when they are equal or each other's negation, of `SMIN` too. -/
theorem natAbs_toInt_eq_iff (x y : Wide) :
    x.toInt.natAbs = y.toInt.natAbs ↔ x = y ∨ y = neg128 x := by
  have hx := x.isLt
  have hy := y.isLt
  rw [neg128_eq, ← BitVec.toNat_inj, ← BitVec.toNat_inj, BitVec.toNat_neg,
    BitVec.toInt_eq_toNat_cond, BitVec.toInt_eq_toNat_cond]
  split <;> split <;> omega

/-- Settles O39: what the Boolean forms say of one another is checked on the three results, and equality is
`threeWay_eq_zero_iff` on the values. -/
theorem orderLaws : Obligations.OrderLaws := by
  refine ⟨fun cmp hcmp x y => ?laws, fun x y => ⟨?unsigned, ?signed, ?magnitude⟩⟩
  case laws =>
    obtain ⟨hc, hswap⟩ := compare_trichotomy_and_swap hcmp x y
    have hmirror : cmp y x = -cmp x y := by rw [hswap, Int.neg_neg]
    rw [hmirror]
    rcases hc with hc | hc | hc <;> rw [hc] <;> decide
  case unsigned => rw [cmpu128_eq_threeWay, threeWay_eq_zero_iff, BitVec.toNat_inj]
  case signed => rw [cmps128_eq_threeWay, threeWay_eq_zero_iff, BitVec.toInt_inj]
  case magnitude =>
    rw [cmpabs128_unsigned_eq_threeWay, threeWay_eq_zero_iff, natAbs_toInt_eq_iff]

end Sys2Proof.Machine
end

section
/-! SUPPORT. The three shifts bit by bit and by value, for every amount, and the statements of 43_shift:
LeftShifts, LogicalRightShifts, ArithmeticRightShifts and ShiftLaws. -/

namespace Sys2Proof.Machine

/-! ### The bits of a shifted value (R161 to R163) -/

theorem getLsbD_shl128 (x : Wide) (n : Nat) {i : Nat} (hi : i < 128) :
    (shl128 x n).getLsbD i = (decide (n ≤ i) && x.getLsbD (i - n)) := by
  rw [shl128_eq, BitVec.getLsbD_shiftLeft, decide_eq_true hi, Bool.true_and, ← decide_not]
  simp only [not_lt]

theorem getLsbD_shr128 (x : Wide) (n i : Nat) :
    (shr128 x n).getLsbD i = (decide (i + n < 128) && x.getLsbD (i + n)) := by
  rw [shr128_eq, BitVec.getLsbD_ushiftRight, Nat.add_comm]
  by_cases h : i + n < 128
  · rw [decide_eq_true h, Bool.true_and]
  · rw [BitVec.getLsbD_of_ge x _ (not_lt.mp h), Bool.and_false]

theorem getLsbD_sar128 (x : Wide) (n : Nat) {i : Nat} (hi : i < 128) :
    (sar128 x n).getLsbD i = x.getLsbD (if i + n < 128 then i + n else 127) := by
  rw [sar128_eq, BitVec.getLsbD_sshiftRight, decide_eq_false (not_le.mpr hi), Bool.not_false,
    Bool.true_and, msb_eq_getLsbD_127, Nat.add_comm, apply_ite x.getLsbD]

/-- The arithmetic right shift divides by the power of two, rounding down (R171, R172). -/
theorem toInt_sar128 (x : Wide) (n : Nat) : (sar128 x n).toInt = x.toInt / 2 ^ n := by
  rw [sar128_eq, BitVec.toInt_sshiftRight, Int.shiftRight_eq_div_pow, Nat.cast_pow, Nat.cast_ofNat]

/-! ### The 128-bit amount (R168, R173) -/

theorem shrByValue_eq_shr128 (x y : Wide) : shrByValue x y = shr128 x y.toNat := by
  rw [shrByValue_eq, shr128_eq]

/-- `RSHIFTV_I_RANGE` stands at the reading of D21, under which a 128-bit amount is no special case. -/
theorem sarByValue_rshiftvIRange_eq_sar128 (x y : Wide) :
    sarByValue Config.rshiftvIRange x y = sar128 x y.toNat := by
  rw [Config.rshiftvIRange, sarByValue_sign_eq, sar128_eq]

/-! ### The instructions (R164 to R173) -/

/-- Settles O40: both engines' rows of `result` hold the one left shift, by 1 or by the whole `N`. -/
theorem leftShifts : Obligations.LeftShifts := by
  intro s x y n
  exact ⟨shl128 x 1, shl128 x n.toNat,
    performs_result s rfl, performs_result s rfl, performs_result s rfl, performs_result s rfl,
    fun i hi => ⟨getLsbD_shl128 x 1 hi, getLsbD_shl128 x n.toNat hi⟩⟩

/-- Settles O41: the form with a 128-bit amount is the same shift by the amount's value. -/
theorem logicalRightShifts : Obligations.LogicalRightShifts := by
  intro s x y n
  refine ⟨shr128 x 1, shr128 x n.toNat, shrByValue x y,
    performs_result s rfl, performs_result s rfl, performs_result s rfl, fun i _ => ?bits⟩
  case bits =>
    rw [shrByValue_eq_shr128]
    exact ⟨getLsbD_shr128 x 1 i, getLsbD_shr128 x n.toNat i, getLsbD_shr128 x y.toNat i⟩

/-- Settles O42: the bits and the floor of the one arithmetic right shift, which the form with a 128-bit
amount is too. -/
theorem arithmeticRightShifts : Obligations.ArithmeticRightShifts := by
  intro s x y n
  refine ⟨sar128 x 1, sar128 x n.toNat, sarByValue Config.rshiftvIRange x y,
    performs_result s rfl, performs_result s rfl, performs_result s rfl, fun i hi => ?bits,
    toInt_sar128 x 1, toInt_sar128 x n.toNat⟩
  case bits =>
    rw [sarByValue_rshiftvIRange_eq_sar128]
    exact ⟨getLsbD_sar128 x 1 hi, getLsbD_sar128 x n.toNat hi, getLsbD_sar128 x y.toNat hi⟩

/-! ### The laws (R174) -/

theorem getLsbD_shl128_shr128 (x : Wide) (n : Nat) {i : Nat} (hi : i < 128) :
    (shl128 (shr128 x n) n).getLsbD i = (decide (n ≤ i) && x.getLsbD i) := by
  rw [getLsbD_shl128 _ n hi, getLsbD_shr128]
  by_cases h : n ≤ i
  · rw [Nat.sub_add_cancel h, decide_eq_true hi, Bool.true_and]
  · rw [decide_eq_false h, Bool.false_and, Bool.false_and]

theorem shl128_one_eq_add128 (x : Wide) : shl128 x 1 = add128 x x := by
  rw [shl128_eq, add128_eq, BitVec.shiftLeft_eq_mul_twoPow]
  exact BitVec.mul_two

/-- Shifted by at least one place, the logical result is not negative; the arithmetic one keeps the sign. -/
theorem shr128_eq_sar128_iff (x : Wide) (n : Nat) :
    shr128 x n = sar128 x n ↔ x.getLsbD 127 = false ∨ n = 0 := by
  constructor
  case mp =>
    intro h
    refine or_iff_not_imp_right.mpr fun hn => ?_
    have hout : ¬ 127 + n < 128 := by omega
    calc x.getLsbD 127
        = (sar128 x n).getLsbD 127 := by rw [getLsbD_sar128 x n (by decide), if_neg hout]
      _ = (shr128 x n).getLsbD 127 := by rw [h]
      _ = false := by rw [getLsbD_shr128, decide_eq_false hout, Bool.false_and]
  case mpr =>
    rw [shr128_eq, sar128_eq]
    rintro (hsign | rfl)
    · exact (BitVec.sshiftRight_eq_of_msb_false ((msb_eq_getLsbD_127 x).trans hsign)).symm
    · rw [BitVec.ushiftRight_zero, BitVec.sshiftRight_zero]

/-- Settles O43: amounts add as they do for 128-bit vectors; the other laws are the lemmas above. -/
theorem shiftLaws : Obligations.ShiftLaws := by
  intro x m n
  refine ⟨fun i hi => getLsbD_shl128_shr128 x n hi, ?left, ?logical, ?arithmetic,
    shl128_one_eq_add128 x, shr128_eq_sar128_iff x n⟩
  case left => simp only [shl128_eq, BitVec.shiftLeft_add]
  case logical => simp only [shr128_eq, BitVec.shiftRight_add]
  case arithmetic => simp only [sar128_eq, BitVec.sshiftRight_add]

end Sys2Proof.Machine
end

section
/-! SUPPORT. What the accumulator holds after each step of the multiplier, and the statements of
44_multiply: Products and MultiplierSteps. -/

namespace Sys2Proof.Machine

/-- Settles O44: both engines' rows of `result` hold the one product of 128-bit vectors, which is exact
modulo 2^128 in the unsigned and in the signed value. -/
theorem products : Obligations.Products := by
  intro s x y n
  exact ⟨x * y, performs_result s rfl, performs_result s rfl,
    BitVec.toNat_mul x y, BitVec.toInt_mul x y⟩

/-- The low `k` bits of the second operand contribute the product by their value (R180). -/
theorem toNat_mulPart_zero (x y : Wide) (k : Nat) :
    (mulPart x y 0 k).toNat = x.toNat * (y.toNat % 2 ^ k) % 2 ^ 128 := by
  rw [mulPart, pow_zero, Nat.div_one, Nat.mul_one, BitVec.toNat_mul, BitVec.toNat_ofNat,
    Nat.mul_mod_mod]

/-- The loop starts from `ACC = ZERO` and counter 0, whatever the registers held (R34, R180). -/
theorem mulLoop_mulLoad_ACC (x y : Wide) (r : MulRegs) {k : Nat} (hk : k ≤ 128) :
    (mulLoop k x y (mulLoad r)).ACC = mulPart x y 0 k := by
  have hload : (mulLoad r).ACC = 0#128 := rfl
  have hcounter : k ≠ 0 → (mulLoad r).I.toNat = 0 := fun _ => rfl
  rw [mulLoop_ACC x y k 0 (mulLoad r) (by omega) hcounter, hload, BitVec.zero_add]

/-- Settles O45: after `k` steps `ACC` is the part of the product from the low `k` bits, and each
structure's product is `x * y`. -/
theorem multiplierSteps : Obligations.MultiplierSteps := by
  intro x y r w w'
  refine ⟨fun k hk => ?steps, ?structures⟩
  case steps => rw [mulLoop_mulLoad_ACC x y r hk, toNat_mulPart_zero]
  case structures => rw [mulUnit_value, mulUnit_value]

end Sys2Proof.Machine
end

section
/-! SUPPORT. The bit length as `Nat.size`, what the search's registers hold at each level, the table's
ranges, and the statements of 45_bitlength: BitLengths and BitLengthSearchAndTable. -/

namespace Sys2Proof.Machine

/-! ### The bit length of a value (R190) -/

/-- A bit length of `k + 1` says that bit `k` is the highest set bit. -/
theorem size_eq_succ_iff {v k : Nat} : Nat.size v = k + 1 ↔ 2 ^ k ≤ v ∧ v < 2 ^ (k + 1) := by
  rw [← Nat.lt_size, ← Nat.size_le]
  omega

/-- The bit length of a nonzero value is the `k` of R190. -/
theorem size_bounds {v : Nat} (hv : v ≠ 0) :
    1 ≤ Nat.size v ∧ 2 ^ (Nat.size v - 1) ≤ v ∧ v < 2 ^ Nat.size v := by
  have hpos : 1 ≤ Nat.size v := Nat.size_pos.mpr (Nat.pos_of_ne_zero hv)
  exact ⟨hpos, Nat.lt_size.mp (Nat.sub_one_lt_of_lt hpos), Nat.lt_size_self v⟩

/-- Settles O46: the rows of `result` hold the operand's `Nat.size`. -/
theorem bitLengths : Obligations.BitLengths := by
  intro s x y n
  exact ⟨Nat.size n.toNat, Nat.size x.toNat, performs_result s rfl, performs_result s rfl,
    Nat.size_le.mpr n.isLt, Nat.size_le.mpr x.isLt,
    Nat.size_eq_zero.mpr, size_bounds, Nat.size_eq_zero.mpr, size_bounds⟩

/-! ### The search's registers (R36, R191) -/

theorem toNat_shr64 (x : Word) (k : Nat) : (shr64 x k).toNat = x.toNat / 2 ^ k := by
  rw [shr64_eq, BitVec.toNat_ushiftRight, Nat.shiftRight_eq_div_pow]

/-- What the search for the bit length of `x` keeps while it has `m` bits left to look at: `X` is `x` above
its low `CNTB` bits and has at most `m` bits, and `CNTB` is a multiple of 8 that leaves room for `m` more
and counts nothing below a zero `X`. -/
structure SearchInv (x : Word) (m : Nat) (r : LenRegs) : Prop where
  X_eq : r.X.toNat = x.toNat / 2 ^ r.CNTB.toNat
  X_lt : r.X.toNat < 2 ^ m
  room : r.CNTB.toNat + m ≤ 64
  dvd : 8 ∣ r.CNTB.toNat
  X_ne_zero : r.CNTB ≠ 0 → r.X ≠ 0

/-- The loading establishes the invariant, whatever the registers held. -/
theorem searchInv_lenLoad (x : Word) (r : LenRegs) : SearchInv x 64 (lenLoad x r) where
  X_eq := by simp [lenLoad]
  X_lt := x.isLt
  room := le_rfl
  dvd := dvd_zero 8
  X_ne_zero := fun h => absurd rfl h

/-- A level whose high half is not zero drops the low half and counts it. -/
theorem lenLevel_of_le {k : Nat} {r : LenRegs} (h : 2 ^ k ≤ r.X.toNat) :
    lenLevel k r = { X := shr64 r.X k, CNTB := r.CNTB + BitVec.ofNat 6 k } :=
  if_pos h

/-- A level whose high half is zero leaves the registers as they are. -/
theorem lenLevel_of_not_le {k : Nat} {r : LenRegs} (h : ¬ 2 ^ k ≤ r.X.toNat) : lenLevel k r = r :=
  if_neg h

/-- A level halves the bits that are left. -/
theorem searchInv_lenLevel {x : Word} {k : Nat} {r : LenRegs} (h : SearchInv x (2 * k) r)
    (hk : 0 < k) (h8 : 8 ∣ k) : SearchInv x k (lenLevel k r) := by
  have hroom := h.room
  obtain ⟨-, hlt, hcount⟩ := lenLevel_spec k (2 * k) r h.X_lt le_rfl (by omega)
  by_cases hhigh : 2 ^ k ≤ r.X.toNat
  · have hC : (r.CNTB + BitVec.ofNat 6 k).toNat = r.CNTB.toNat + k := by
      rw [BitVec.toNat_add, BitVec.toNat_ofNat]
      omega
    have hX : (shr64 r.X k).toNat ≠ 0 := by
      rw [toNat_shr64]
      exact (Nat.div_pos hhigh (Nat.two_pow_pos k)).ne'
    rw [lenLevel_of_le hhigh] at hlt hcount ⊢
    exact
      { X_eq := by rw [hC, toNat_shr64, h.X_eq, Nat.div_div_eq_div_mul, ← pow_add]
        X_lt := hlt
        room := by omega
        dvd := hC ▸ dvd_add h.dvd h8
        X_ne_zero := fun _ h0 => hX (congrArg BitVec.toNat h0) }
  · rw [lenLevel_of_not_le hhigh] at hlt ⊢
    exact ⟨h.X_eq, hlt, by omega, h.dvd, h.X_ne_zero⟩

/-- After the three levels 8 bits are left, which the table looks up. -/
theorem searchInv_lenRun (x : Word) (r : LenRegs) : SearchInv x 8 (lenRun x r) := by
  have h32 := searchInv_lenLevel (k := 32) (searchInv_lenLoad x r) (by decide) (by decide)
  have h16 := searchInv_lenLevel (k := 16) h32 (by decide) (by decide)
  exact searchInv_lenLevel (k := 8) h16 (by decide) (by decide)

/-! ### The table (R41) -/

theorem length_lut8Table : lut8Table.length = 256 := by
  simp only [lut8Table, List.length_append, List.length_replicate, List.length_singleton,
    Nat.reduceAdd]

/-- The table holds `k + 1` from index `2^k` to index `2^(k+1) - 1`. -/
theorem lut8_eq_iff (i : BitVec 8) {k : Nat} (hk : k < 8) :
    lut8 i = BitVec.ofNat 4 (k + 1) ↔
      BitVec.ofNat 8 (2 ^ k) ≤ i ∧ i ≤ BitVec.ofNat 8 (2 ^ (k + 1) - 1) := by
  have hlow : 2 ^ k < 2 ^ 8 := Nat.pow_lt_pow_right (by decide) hk
  have hhigh : 2 ^ (k + 1) ≤ 2 ^ 8 := Nat.pow_le_pow_right (by decide) hk
  have hpos : 0 < 2 ^ (k + 1) := Nat.two_pow_pos (k + 1)
  rw [← BitVec.toNat_inj, lut8_eq_size, BitVec.le_def, BitVec.le_def,
    BitVec.toNat_ofNat, BitVec.toNat_ofNat, BitVec.toNat_ofNat, Nat.mod_eq_of_lt (by omega),
    Nat.mod_eq_of_lt hlow, Nat.mod_eq_of_lt (by omega), size_eq_succ_iff]
  omega

theorem lut8_eq_one_iff (i : BitVec 8) : lut8 i = 1 ↔ i = 1 := by
  refine (lut8_eq_iff i (k := 0) (by decide)).trans ⟨fun ⟨hlow, hhigh⟩ => ?_, ?_⟩
  · exact BitVec.le_antisymm hhigh hlow
  · rintro rfl
    exact ⟨BitVec.le_refl _, BitVec.le_refl _⟩

/-- The last range goes to the end of the table. -/
theorem lut8_eq_eight_iff (i : BitVec 8) : lut8 i = 8 ↔ 128 ≤ i := by
  have hend : i ≤ BitVec.ofNat 8 (2 ^ (7 + 1) - 1) := Nat.le_of_lt_succ i.isLt
  exact (lut8_eq_iff i (k := 7) (by decide)).trans (and_iff_left hend)

/-- Settles O47: the invariant of the search after its three levels, and the table range by range. -/
theorem bitLengthSearchAndTable : Obligations.BitLengthSearchAndTable := by
  refine ⟨fun x r => ?search, length_lut8Table, rfl, fun i _ => ?table⟩
  case search =>
    have h := searchInv_lenRun x r
    exact ⟨h.X_eq, h.X_lt, h.dvd, h.X_ne_zero⟩
  case table =>
    exact ⟨lut8_eq_one_iff i, lut8_eq_iff i (k := 1) (by decide), lut8_eq_iff i (k := 2) (by decide),
      lut8_eq_iff i (k := 3) (by decide), lut8_eq_iff i (k := 4) (by decide),
      lut8_eq_iff i (k := 5) (by decide), lut8_eq_iff i (k := 6) (by decide), lut8_eq_eight_iff i⟩

end Sys2Proof.Machine
end

section
/-! SUPPORT. What the two dividers' quotients and remainders are as values, the invariant of the long-division
loop, and the statements of 46_divide_unsigned: DivisionLoopInvariant, UnsignedDivision, DivisionIdentity and
FastPathsChangeNoResult. -/

namespace Sys2Proof.Machine

/-! ### The alignment (R204, R205) -/

/-- A divisor shifted up to the dividend's bit length loses no bit. -/
theorem aligned_divisor_lt {x d : Wide} {n : Nat} (hn : Nat.size x.toNat = Nat.size d.toNat + n) :
    d.toNat * 2 ^ n < 2 ^ 128 :=
  calc d.toNat * 2 ^ n
      < 2 ^ Nat.size d.toNat * 2 ^ n :=
        Nat.mul_lt_mul_of_pos_right (Nat.lt_size_self d.toNat) (Nat.two_pow_pos n)
    _ = 2 ^ Nat.size x.toNat := by rw [← pow_add, hn]
    _ ≤ 2 ^ 128 := Nat.pow_le_pow_right (by decide) (Nat.size_le.mpr x.isLt)

section
variable {x d : Wide} {n : Nat} (hd : d ≠ ZERO) (hn : Nat.size x.toNat = Nat.size d.toNat + n)
include hd hn

/-- The bit lengths of two values, the shorter one not zero, differ by 127 at most. -/
theorem size_difference_le : n ≤ 127 := by
  have hx : Nat.size x.toNat ≤ 128 := Nat.size_le.mpr x.isLt
  have hpos : 0 < Nat.size d.toNat := Nat.size_pos.mpr (BitVec.toNat_pos_of_ne_zero hd)
  omega

/-- Shifted one place beyond the dividend's bit length, the divisor is above the dividend. -/
theorem dividend_lt_aligned_divisor : x.toNat < d.toNat * 2 ^ (n + 1) := by
  obtain ⟨hpos, hlow, -⟩ := size_bounds (BitVec.toNat_pos_of_ne_zero hd).ne'
  have hsize : Nat.size x.toNat = Nat.size d.toNat - 1 + (n + 1) := by omega
  calc x.toNat
      < 2 ^ Nat.size x.toNat := Nat.lt_size_self x.toNat
    _ = 2 ^ (Nat.size d.toNat - 1) * 2 ^ (n + 1) := by rw [hsize, pow_add]
    _ ≤ d.toNat * 2 ^ (n + 1) := Nat.mul_le_mul_right _ hlow

/-! ### The loop (R204, R205) -/

/-- The loading establishes the invariant with `n + 1` iterations left, whatever the registers held. -/
theorem divInv_divLoad (r : DivRegs) : DivInv x d n (n + 1) (divLoad x d n r) := by
  have hn127 := size_difference_le hd hn
  refine ⟨?count, fun _ => ?divisor, ?dividend, dividend_lt_aligned_divisor hd hn, ?quotient⟩
  case count =>
    simp only [divLoad, BitVec.toNat_ofNat]
    omega
  case divisor =>
    simp only [divLoad, shl128_eq, BitVec.toNat_shiftLeft, Nat.shiftLeft_eq, Nat.add_sub_cancel]
    exact Nat.mod_eq_of_lt (aligned_divisor_lt hn)
  case dividend => simp [divLoad]
  case quotient => simp [divLoad]

end

/-- An iteration takes one off a count that is not zero. -/
theorem toNat_divStep_CNT {r : DivRegs} {c : Nat} (h : r.CNT.toNat = c + 1) :
    (divStep r).CNT.toNat = c := by
  have hlt := r.CNT.isLt
  have hone : (1 : BitVec 8).toNat = 1 := rfl
  simp only [divStep, BitVec.toNat_sub, h, hone]
  omega

/-- One iteration keeps the invariant, whether or not the divisor is taken off the remainder. -/
theorem divInv_divStep {x d : Wide} {n c : Nat} {r : DivRegs} (hn : n ≤ 127) (hc : c ≤ n)
    (h : DivInv x d n (c + 1) r) : DivInv x d n c (divStep r) := by
  obtain ⟨hcnt, hdv, hx, hrem, hq⟩ := h
  rw [Nat.add_sub_add_right] at hq
  have hroom : (2 * r.Q.toNat + 2) * 2 ^ c ≤ 2 ^ 128 :=
    calc (2 * r.Q.toNat + 2) * 2 ^ c
        = (r.Q.toNat + 1) * 2 ^ (c + 1) := by ring
      _ ≤ 2 ^ (n - c) * 2 ^ (c + 1) := Nat.mul_le_mul_right _ hq
      _ = 2 ^ (n - c + (c + 1)) := (pow_add 2 _ _).symm
      _ ≤ 2 ^ 128 := Nat.pow_le_pow_right (by decide) (by omega)
  obtain ⟨hQ, hREM, hDV⟩ := divStep_spec r d.toNat c (hdv (Nat.succ_ne_zero c)) hroom
  have hdouble : d.toNat * 2 ^ (c + 1) = 2 * (d.toNat * 2 ^ c) := by ring
  have hquot : 2 ^ (n + 1 - c) = 2 * 2 ^ (n - c) := by rw [Nat.sub_add_comm hc, pow_succ']
  rw [Nat.mul_assoc, hdouble, Nat.mul_left_comm] at hx
  rw [hdouble] at hrem
  refine ⟨toNat_divStep_CNT hcnt, fun hc0 => ?divisor, ?dividend, ?remainder, ?quotient⟩
  case divisor =>
    obtain ⟨e, rfl⟩ := Nat.exists_eq_succ_of_ne_zero hc0
    rw [hDV, Nat.pow_succ, ← Nat.mul_assoc, Nat.mul_div_cancel _ (by decide), Nat.succ_sub_one]
  case dividend =>
    rw [hQ, hREM, Nat.mul_assoc, Nat.add_mul, Nat.mul_assoc, hx]
    split <;> omega
  case remainder =>
    rw [hREM]
    split <;> omega
  case quotient =>
    rw [hQ, hquot]
    split <;> omega

/-- With no iteration left, the invariant is the division (R206). -/
theorem divInv_zero {x d : Wide} {n : Nat} {r : DivRegs} (hd : d ≠ ZERO) (h : DivInv x d n 0 r) :
    r.Q = x / d ∧ r.REM = x % d := by
  obtain ⟨-, -, hx, hrem, -⟩ := h
  rw [pow_zero, Nat.mul_one] at hx hrem
  rw [Nat.mul_comm] at hx
  have hpos : 0 < d := BitVec.toNat_pos_of_ne_zero hd
  exact ⟨(BitVec.udiv_eq_of_mul_add_toNat hpos hrem hx.symm).symm,
    (BitVec.umod_eq_of_mul_add_toNat hrem hx.symm).symm⟩

/-- Settles O52: the bit lengths are `Nat.size` (`bitlen128Unit_value`); the loading, the iteration and the
end are the three lemmas above. -/
theorem divisionLoopInvariant : Obligations.DivisionLoopInvariant := by
  intro x d w n hd hn
  rw [bitlen128Unit_value, bitlen128Unit_value] at hn
  have hn127 := size_difference_le hd hn
  exact ⟨hn127, divInv_divLoad hd hn, fun c r => divInv_divStep hn127, fun r => divInv_zero hd⟩

/-! ### The instructions (R208 to R210) -/

/-- A request that decodes to a division by a nonzero divisor performs it with the quotient and remainder
in its form. -/
theorem performs_division {op : BitVec 8} {x d : Wide} {n : Word} {i : Instr} {r : Response} (s : State)
    (hi : decodeRequest ⟨op, x, d, n⟩ = .ok i)
    (hr : result i = if d = ZERO then { ERR := 1 } else r) (hd : d ≠ ZERO) :
    Performs op x d n i s r := by
  have hrow : result i = r := hr.trans (if_neg hd)
  exact hrow ▸ performs_result s hi

/-- Settles O48: the three rows of `result` hold quotient and remainder of 128-bit vectors. -/
theorem unsignedDivision : Obligations.UnsignedDivision := by
  intro s x d n hd
  exact ⟨x / d, x % d, performs_division s rfl rfl hd, performs_division s rfl rfl hd,
    performs_division s rfl rfl hd, BitVec.toNat_udiv, BitVec.toNat_umod⟩

/-! ### The division identity (R211, R225) -/

/-- A ready core answers two requests in turn, each with its row of the table, and is ready again. -/
theorem State.transact_twice {s : State} {q q' : Request} {i i' : Instr} (hs : s.reqReady = true)
    (hq : decodeRequest q = .ok i) (hq' : decodeRequest q' = .ok i') :
    ∃ t u, s.transact q = .next t ∧ t.rspValid = true ∧ t.rsp = result i ∧
      t.transact q' = .next u ∧ u.rspValid = true ∧ u.rsp = result i' ∧ u.reqReady = true := by
  obtain ⟨t, ht, htv, htr⟩ := (responds_iff_result hs).mpr ⟨i, hq, rfl⟩
  have hready := State.reqReady_of_transact hs ht
  obtain ⟨u, hu, huv, hur⟩ := (responds_iff_result hready).mpr ⟨i', hq', rfl⟩
  exact ⟨t, u, ht, htv, htr, hu, huv, hur, State.reqReady_of_transact hready hu⟩

/-- Quotient times divisor plus remainder is the dividend, for the unsigned type. -/
theorem add128_udiv_mul_umod (x d : Wide) : add128 (x / d * d) (x % d) = x := by
  rw [add128_eq, ← BitVec.toNat_inj, BitVec.toNat_add, BitVec.toNat_mul, BitVec.toNat_udiv,
    BitVec.toNat_umod, Nat.mod_add_mod, Nat.div_add_mod', Nat.mod_eq_of_lt x.isLt]

/-- And for the signed type, the wrapped quotient of `SMIN / -1` included: it is brought into range once
more by the product (D34). -/
theorem add128_sdiv_mul_srem (x d : Wide) : add128 (x.sdiv d * d) (x.srem d) = x := by
  rw [add128_eq, ← BitVec.toInt_inj, BitVec.toInt_add, BitVec.toInt_mul, BitVec.toInt_sdiv,
    BitVec.toInt_srem, Int.bmod_mul_bmod, Int.bmod_add_bmod, Int.tdiv_mul_add_tmod,
    BitVec.toInt_bmod_cancel]

/-- The unsigned remainder is below the divisor. -/
theorem toNat_umod_lt {d : Wide} (x : Wide) (hd : d ≠ ZERO) : (x % d).toNat < d.toNat := by
  rw [BitVec.toNat_umod]
  exact Nat.mod_lt _ (BitVec.toNat_pos_of_ne_zero hd)

/-- The signed remainder is below the divisor in magnitude. -/
theorem natAbs_toInt_srem_lt {d : Wide} (x : Wide) (hd : d ≠ ZERO) :
    (x.srem d).toInt.natAbs < d.toInt.natAbs := by
  have hd0 : d.toInt ≠ 0 := fun h => hd (BitVec.toInt_inj.mp h)
  rw [BitVec.toInt_srem, Int.natAbs_tmod]
  exact Nat.mod_lt _ (Int.natAbs_pos.mpr hd0)

/-- The signed remainder is zero or has the dividend's sign. -/
theorem srem_eq_zero_or_sign (x d : Wide) :
    x.srem d = ZERO ∨ (x.srem d).getLsbD 127 = x.getLsbD 127 := by
  refine or_iff_not_imp_left.mpr fun (h : x.srem d ≠ 0) => ?_
  rw [← msb_eq_getLsbD_127, ← msb_eq_getLsbD_127, BitVec.msb_srem, decide_eq_true h, Bool.and_true]

/-- Settles O50: `State.transact_twice` runs the division and the multiplication; the sum and the compare
that follow have the values of the lemmas above. -/
theorem divisionIdentity : Obligations.DivisionIdentity := by
  intro s x d hs hd
  refine ⟨?unsigned, ?signed⟩
  case unsigned =>
    obtain ⟨t, u, ht, htv, htr, hu, huv, hur, hready⟩ := State.transact_twice hs
      (q := { OP := 0x41, A := x, B := d }) (q' := { OP := 0x40, A := x / d, B := d }) rfl rfl
    refine ⟨x / d, x % d, x / d * d, t, u, ht, htv, htr.trans (if_neg hd), hu, huv, hur,
      (responds_iff_result hready).mpr ⟨_, rfl, ?sum⟩, (responds_iff_result hready).mpr ⟨_, rfl, ?less⟩⟩
    case sum => rw [result, add128_udiv_mul_umod]
    case less =>
      rw [result, boolS_isLt_of_eq_threeWay (cmpu128_eq_threeWay _ _), if_pos (toNat_umod_lt x hd)]
  case signed =>
    obtain ⟨t, u, ht, htv, htr, hu, huv, hur, hready⟩ := State.transact_twice hs
      (q := { OP := 0xC1, A := x, B := d }) (q' := { OP := 0xC0, A := x.sdiv d, B := d }) rfl rfl
    refine ⟨x.sdiv d, x.srem d, x.sdiv d * d, t, u, ht, htv, htr.trans (if_neg hd), hu, huv, hur,
      (responds_iff_result hready).mpr ⟨_, rfl, ?sum⟩, (responds_iff_result hready).mpr ⟨_, rfl, ?less⟩,
      srem_eq_zero_or_sign x d⟩
    case sum => rw [result, add128_sdiv_mul_srem]
    case less =>
      rw [result, Config.abscmpReading, boolS_isLt_of_eq_threeWay (cmpabs128_unsigned_eq_threeWay _ _),
        if_pos (natAbs_toInt_srem_lt x hd)]

/-! ### The fast paths (R207) -/

/-- The unsigned block raises exactly for a zero divisor (R201). -/
theorem udivmodUnit_eq_none_iff (fast : Bool) (m : Config.MulStructure) (x d : Wide) (w : Work) :
    udivmodUnit fast m x d w = none ↔ d = ZERO := by
  rcases udivmodUnit_cases fast m x d w with ⟨hd, h⟩ | ⟨hd, w', h⟩
  · exact iff_of_true h hd
  · exact iff_of_false (h ▸ Option.some_ne_none _) hd

/-- The signed block raises exactly for a zero divisor (R220). -/
theorem sdivmodUnit_eq_none_iff (fast : Bool) (m : Config.MulStructure) (x d : Wide) (w : Work) :
    sdivmodUnit fast m x d w = none ↔ d = ZERO := by
  rcases sdivmodUnit_cases fast m x d w with ⟨hd, h⟩ | ⟨hd, w', h⟩
  · exact iff_of_true h hd
  · exact iff_of_false (h ▸ Option.some_ne_none _) hd

/-- Settles O51: each block's value (`udivmodUnit_value`, `sdivmodUnit_value`) names neither the fast paths
nor the multiplier nor the registers. -/
theorem fastPathsChangeNoResult : Obligations.FastPathsChangeNoResult := by
  intro m m' x d w w'
  refine ⟨?unsigned, ?signed, udivmodUnit_eq_none_iff true m x d w, sdivmodUnit_eq_none_iff true m x d w⟩
  case unsigned => rw [udivmodUnit_value, udivmodUnit_value]
  case signed => rw [sdivmodUnit_value, sdivmodUnit_value]

end Sys2Proof.Machine
end

section
/-! SUPPORT. The signed quotient and remainder as truncated division, `SMIN / -1` apart, the flags and magnitudes
of the signed wrapper, and the statements of 47_divide_signed: SignedDivision and SignedWrapperNormalises. -/

namespace Sys2Proof.Machine

/-! ### Truncated division (R221 to R224) -/

/-- The one quotient out of range wraps to the dividend, which is its own negation (D34). -/
theorem sdiv_SMIN_ONES : SMIN.sdiv ONES = SMIN := BitVec.intMin_sdiv_neg_one

/-- `-1` divides every value. -/
theorem srem_ONES (x : Wide) : x.srem ONES = ZERO := by
  have hones : ONES.toInt = -1 := by decide
  exact BitVec.srem_zero_of_dvd (hones ▸ Int.neg_dvd.mpr (one_dvd _))

/-- Every other quotient is in range and exact. -/
theorem toInt_sdiv_of_not_SMIN_ONES {x d : Wide} (h : ¬ (x = SMIN ∧ d = ONES)) :
    (x.sdiv d).toInt = x.toInt.tdiv d.toInt :=
  BitVec.toInt_sdiv_of_ne_or_ne x d (not_and_or.mp h)

/-- Settles O49: the three rows of `result` hold the truncated quotient and remainder of 128-bit vectors, which
wrap at `SMIN / -1` only. -/
theorem signedDivision : Obligations.SignedDivision := by
  intro s x d n hd
  refine ⟨x.sdiv d, x.srem d, performs_division s rfl rfl hd, performs_division s rfl rfl hd,
    performs_division s rfl rfl hd, BitVec.toInt_sdiv x d, BitVec.toInt_srem x d, ?wraps,
    toInt_sdiv_of_not_SMIN_ONES⟩
  case wraps =>
    rintro rfl rfl
    exact ⟨sdiv_SMIN_ONES, srem_ONES SMIN⟩

/-! ### The wrapper's registers (R220, R32, R35) -/

/-- The sign flag is the sign. -/
theorem signOf_eq_negative_iff (x : Wide) : signOf x = .negative ↔ x.toInt < 0 := by
  have hmsb : x.msb = true ↔ x.toInt < 0 := by rw [BitVec.msb_eq_toInt, decide_eq_true_eq]
  rw [← hmsb, signOf]
  split
  case isTrue h => exact iff_of_true rfl h
  case isFalse h => exact iff_of_false Sign.noConfusion h

/-- The magnitude register of an operand holds its absolute value. -/
theorem signLoad_xm (x d : Wide) (g : SignRegs) : (signLoad x d g).xm = abs128 x := rfl

theorem signLoad_dm (x d : Wide) (g : SignRegs) : (signLoad x d g).dm = abs128 d := rfl

/-- Settles O53: flags by `signOf_eq_negative_iff`, magnitudes by `toNat_abs128`; the unsigned engine writes no
register of the wrapper (`udivmodUnit_sgn`). -/
theorem signedWrapperNormalises : Obligations.SignedWrapperNormalises := by
  intro x d g
  refine ⟨signOf_eq_negative_iff x, signOf_eq_negative_iff d, ?dividend, ?divisor,
    signLoad_dm_eq_zero x d g, fun fast m w w' v => udivmodUnit_sgn fast m x d w w' v⟩
  case dividend => rw [signLoad_xm, toNat_abs128]
  case divisor => rw [signLoad_dm, toNat_abs128]

end Sys2Proof.Machine
end

section
/-! SUPPORT. The conversions as zero extension, sign extension and reduction modulo 2^64, the predicates by
value and by round trip, and the statements of 48_convert_predicates: UnsignedWordWidening,
SignedWordWidening, SilentNarrowing, RangePredicates, SignPredicates, ConversionLaws and Reinterpretations. -/

namespace Sys2Proof.Machine

/-! ### Widening (R232, R233, R242, R243) -/

/-- The unsigned value is the signed one modulo 2^w (R11). -/
theorem toNat_eq_toInt_emod {w : Nat} (x : BitVec w) : (x.toNat : Int) = x.toInt % (2 ^ w : Nat) := by
  rw [BitVec.toInt_eq_toNat_bmod, Int.bmod_emod, ← Int.natCast_mod, Nat.mod_eq_of_lt x.isLt]

theorem toNat_widenU (w : Word) : (widenU w).toNat = w.toNat := by
  rw [widenU_eq, BitVec.toNat_setWidth_of_le (by decide)]

theorem toInt_widenU (w : Word) : (widenU w).toInt = w.toNat := by
  have hw := w.isLt
  rw [BitVec.toInt_eq_toNat_of_lt (by rw [toNat_widenU]; omega), toNat_widenU]

/-- Settles O54: both rows of `result` hold `widenU`, the word under a zero high word. -/
theorem unsignedWordWidening : Obligations.UnsignedWordWidening := by
  intro s x y w
  exact ⟨widenU w, performs_result s rfl, performs_result s rfl, toNat_widenU w, toInt_widenU w,
    hiWord_pair 0 w⟩

/-- Settles O55: both rows of `result` hold `widenS`, which keeps the signed value; the unsigned value is the
signed one modulo 2^128, on every value. -/
theorem signedWordWidening : Obligations.SignedWordWidening := by
  intro s x y w
  refine ⟨widenS w, performs_result s rfl, performs_result s rfl, toInt_widenS w, ?wraps, loWord_pair _ w,
    ?minusOne⟩
  case wraps =>
    rw [toNat_eq_toInt_emod, toInt_widenS]
    rfl
  case minusOne =>
    rintro rfl
    decide

/-! ### Narrowing (R234, R235, R244, R245) -/

theorem toInt_loWord (x : Wide) : (loWord x).toInt = (x.toNat : Int).bmod (2 ^ 64) := by
  rw [BitVec.toInt_eq_toNat_bmod, toNat_loWord, Int.natCast_mod, Int.emod_bmod]

/-- The low word's signed value comes from either reading of the whole: they differ by 2^128. -/
theorem toInt_loWord_eq_bmod_toInt (x : Wide) : (loWord x).toInt = x.toInt.bmod (2 ^ 64) := by
  rw [toInt_loWord, BitVec.toInt_eq_toNat_bmod x, Int.bmod_bmod_of_dvd (by decide)]

theorem toNat_loWord_eq_toInt_emod (x : Wide) : ((loWord x).toNat : Int) = x.toInt % 2 ^ 64 := by
  rw [toNat_eq_toInt_emod, toInt_loWord_eq_bmod_toInt, Int.bmod_emod]
  rfl

/-- Settles O56: all four rows of `result` hold the low word. -/
theorem silentNarrowing : Obligations.SilentNarrowing := by
  intro s x y n
  exact ⟨loWord x, performs_result s rfl, performs_result s rfl, performs_result s rfl,
    performs_result s rfl, toNat_loWord x, toInt_loWord x, toInt_loWord_eq_bmod_toInt x,
    toNat_loWord_eq_toInt_emod x⟩

/-! ### Reinterpretation (R236, R246) -/

/-- Settles O57: both rows of `result` hold the operand itself, and bit 127 is what the two readings differ
in. -/
theorem reinterpretations : Obligations.Reinterpretations := by
  intro s x y n
  refine ⟨performs_result s rfl, performs_result s rfl, ?_⟩
  rw [BitVec.toInt_eq_msb_cond, msb_eq_getLsbD_127]
  split
  · rfl
  · rw [Int.sub_zero]

/-! ### The predicates by round trip (R237, R238, R247, R248, R253) -/

theorem eq64_iff (x y : Word) : eq64 x y = true ↔ x = y := decide_eq_true_iff

/-- A high word over `x`'s low word gives `x` back exactly when it is `x`'s own. -/
theorem pair_loWord_eq_iff (h : Word) (x : Wide) : pair h (loWord x) = x ↔ hiWord x = h := by
  constructor
  · intro hx
    rw [← hx, hiWord_pair]
  · rintro rfl
    exact pair_hiWord_loWord x

theorem fitsU64U_iff (x : Wide) : fitsU64U x = true ↔ hiWord x = 0 := eq64_iff _ _

theorem fitsU64I_iff_widenU_narrow (x : Wide) : fitsU64I x = true ↔ widenU (narrow x) = x :=
  (eq64_iff _ _).trans (pair_loWord_eq_iff 0 x).symm

theorem fitsS64I_iff_widenS_narrow (x : Wide) : fitsS64I x = true ↔ widenS (narrow x) = x :=
  (eq64_iff _ _).trans (pair_loWord_eq_iff _ x).symm

theorem fitsS64U_iff (x : Wide) : fitsS64U x = true ↔ hiWord x = 0 ∧ (loWord x).msb = false := by
  rw [fitsS64U, Bool.and_eq_true, eq64_iff, Bool.not_eq_true']

/-- The two predicates for the signed range agree when the low word reads as nonnegative; when it reads as
negative the unsigned one fails, and the signed one asks for a high word of ones. -/
theorem fitsS64U_ne_fitsS64I_iff (x : Wide) :
    fitsS64U x ≠ fitsS64I x ↔ hiWord x = MAXU64 ∧ (loWord x).msb = true := by
  cases h : (loWord x).msb with
  | false => simp [fitsS64U, fitsS64I, sar64, h]
  | true => simp [fitsS64U, fitsS64I, sar64, eq64, h]

/-- Settles O60: each predicate is a round trip, or a condition on the two words, by the lemmas above. -/
theorem conversionLaws : Obligations.ConversionLaws := by
  intro w x
  refine ⟨loWord_pair 0 w, loWord_pair _ w, (fitsU64I_iff_widenU_narrow x).symm,
    (fitsS64I_iff_widenS_narrow x).symm, fun h => ?_, rfl, ?_⟩
  · exact (fitsU64U_iff x).mpr ((fitsS64U_iff x).mp h).left
  · rw [fitsS64U_ne_fitsS64I_iff, BitVec.msb_eq_getLsbD_last]

/-! ### The predicates by value (R237, R238, R247 to R251) -/

/-- A Boolean result on `S`, for a predicate that decides `p` (R67). -/
theorem boolS_of_iff {b : Bool} {p : Prop} [Decidable p] (h : b = true ↔ p) :
    boolS b = if p then 1 else 0 := if_congr h rfl rfl

theorem hiWord_eq_zero_iff (x : Wide) : hiWord x = 0 ↔ x.toNat < 2 ^ 64 := by
  rw [← BitVec.toNat_inj, toNat_hiWord]
  exact Nat.div_eq_zero_iff_lt (by decide)

theorem fitsU64U_iff_toNat_le (x : Wide) : fitsU64U x = true ↔ x.toNat ≤ 2 ^ 64 - 1 := by
  rw [fitsU64U_iff, hiWord_eq_zero_iff]
  omega

theorem fitsS64U_iff_toNat_le (x : Wide) : fitsS64U x = true ↔ x.toNat ≤ 2 ^ 63 - 1 := by
  rw [fitsS64U_iff, hiWord_eq_zero_iff, BitVec.msb_eq_false_iff_two_mul_lt, toNat_loWord]
  omega

/-- A value in the unsigned 64-bit range is the widening of its low word, whose unsigned value it is. -/
theorem fitsU64I_iff_toInt_mem (x : Wide) :
    fitsU64I x = true ↔ 0 ≤ x.toInt ∧ x.toInt ≤ 2 ^ 64 - 1 := by
  rw [fitsU64I_iff_widenU_narrow, ← BitVec.toInt_inj, toInt_widenU, narrow, toNat_loWord_eq_toInt_emod]
  omega

/-- A value in the signed 64-bit range is the widening of its low word, whose signed value it is. -/
theorem fitsS64I_iff_toInt_mem (x : Wide) :
    fitsS64I x = true ↔ -2 ^ 63 ≤ x.toInt ∧ x.toInt ≤ 2 ^ 63 - 1 := by
  rw [fitsS64I_iff_widenS_narrow, ← BitVec.toInt_inj, toInt_widenS, narrow, toInt_loWord_eq_bmod_toInt,
    Int.bmod_def]
  omega

/-- Settles O58: each code's row of `result` is a predicate that decides the range. -/
theorem rangePredicates : Obligations.RangePredicates := by
  intro s x y n
  exact ⟨performs_S s rfl rfl (boolS_of_iff (fitsS64U_iff_toNat_le x)),
    performs_S s rfl rfl (boolS_of_iff (fitsU64U_iff_toNat_le x)),
    performs_S s rfl rfl (boolS_of_iff (fitsS64I_iff_toInt_mem x)),
    performs_S s rfl rfl (boolS_of_iff (fitsU64I_iff_toInt_mem x))⟩

theorem isNeg_iff_toInt_neg (x : Wide) : isNeg x = true ↔ x.toInt < 0 := by
  rw [isNeg, BitVec.msb_eq_toInt, decide_eq_true_iff]

theorem eq_ZERO_iff_toInt_eq_zero (x : Wide) : x = ZERO ↔ x.toInt = 0 := by
  rw [← BitVec.toInt_inj, BitVec.toInt_zero]

/-- With zero left out (D23), `ISPOS` is strictly positive. -/
theorem isPos_false_iff_toInt_pos (x : Wide) : isPos false x = true ↔ 0 < x.toInt := by
  by_cases hx : x = ZERO
  · subst hx
    decide
  · have h0 : x.toInt ≠ 0 := mt (eq_ZERO_iff_toInt_eq_zero x).mpr hx
    rw [isPos, if_neg hx, BitVec.msb_eq_toInt, Bool.not_eq_true', decide_eq_false_iff_not]
    omega

/-- `SIGN` is the three-way compare with zero (D19, D23). -/
theorem signThreeWay_eq_threeWay (x : Wide) : signThreeWay x = threeWay x.toInt 0 := by
  simp only [signThreeWay, threeWay, BitVec.msb_eq_toInt, decide_eq_true_iff, eq_ZERO_iff_toInt_eq_zero]
  split_ifs <;> omega

/-- Settles O59: each code's row of `result` is a predicate on the signed value, or its compare with zero. -/
theorem signPredicates : Obligations.SignPredicates := by
  intro s x y n
  exact ⟨performs_S s rfl rfl (boolS_of_iff (isNeg_iff_toInt_neg x)),
    performs_S s rfl rfl (boolS_of_iff (isPos_false_iff_toInt_pos x)),
    performs_S s rfl rfl (threeWayS_of_eq_threeWay (signThreeWay_eq_threeWay x))⟩

end Sys2Proof.Machine
end

section
/-! SUPPORT. Where the exception arises, sequences of lines on a ready core, cores side by side, and the
statements of 60_exceptions: CoresShareNothing, ErrExactlyOnZeroDivisor, ErrIsNotSticky,
SequenceStopsAtFirstErr and ZeroDivisorFaultResponse. -/

namespace Sys2Proof.Machine

/-! ### Where `ERR` is raised (R300, R301, R303) -/

/-- The operations that may raise are the six divisions (R62, R300). -/
theorem opMayErr_iff : ∀ op : BitVec 8, opMayErr op = true ↔
    op = 0x41 ∨ op = 0x42 ∨ op = 0x43 ∨ op = 0xC1 ∨ op = 0xC2 ∨ op = 0xC3 := by
  decide +kernel

/-- Settles O21: the response fits its request (`responseFits_of_decodeRequest`), so `ERR` is 1 exactly for an
operation that may raise with a zero divisor. -/
theorem errExactlyOnZeroDivisor : Obligations.ErrExactlyOnZeroDivisor := by
  intro s q r hs h
  obtain ⟨i, hd, rfl⟩ := (responds_iff_result hs).mp h
  obtain ⟨herr, -⟩ := responseFits_of_decodeRequest hd
  rw [herr, opMayErr_iff]

/-- A request whose operation may raise, with a zero divisor, has the fault response (R303). -/
theorem result_of_zero_divisor {q : Request} {i : Instr} (hd : decodeRequest q = .ok i)
    (hop : opMayErr q.OP = true) (hB : q.B = ZERO) : result i = { ERR := 1 } := by
  obtain ⟨herr, hfault, -⟩ := responseFits_of_decodeRequest hd
  have hERR : (result i).ERR = 1 := herr.mpr ⟨hop, hB⟩
  obtain ⟨hZ, hR, hS⟩ := hfault hERR
  rw [Response.mk.injEq]
  exact ⟨hERR, hZ, hR, hS⟩

theorem performs_zero_division {op : BitVec 8} {x : Wide} {n : Word} {i : Instr} (s : State)
    (hd : decodeRequest ⟨op, x, ZERO, n⟩ = .ok i) (hop : opMayErr op = true) :
    Performs op x ZERO n i s { ERR := 1 } :=
  result_of_zero_divisor hd hop rfl ▸ performs_result s hd

/-- The `RSP` word of the fault response: `ERR`, and zero in the 320 bits of the three data fields. -/
theorem responseWord_fault : responseWord { ERR := 1 } = 1#1 ++ 0#320 := by
  simp [responseWord]

/-- Settles O22: each code's instruction may raise, and has the fault response at a zero divisor. -/
theorem zeroDivisorFaultResponse : Obligations.ZeroDivisorFaultResponse := by
  refine ⟨fun s x n => ?_, responseWord_fault⟩
  exact ⟨performs_zero_division s rfl rfl, performs_zero_division s rfl rfl,
    performs_zero_division s rfl rfl, performs_zero_division s rfl rfl,
    performs_zero_division s rfl rfl, performs_zero_division s rfl rfl⟩

/-- Settles O23: the fault leaves a ready core as any response does, and any two ready cores respond
alike. -/
theorem errIsNotSticky : Obligations.ErrIsNotSticky := by
  intro s t q q' r hs ht _ _
  have hready : t.reqReady = true := State.reqReady_of_transact hs ht
  exact ⟨responds_congr hready hs, hready⟩

/-! ### Sequences (R306) -/

/-- A request whose operation may raise, with a zero divisor, is answered with `ERR = 1` (R301). -/
theorem State.transact_err {s : State} {q : Request} (hs : s.reqReady = true) (hop : opMayErr q.OP = true)
    (hB : q.B = ZERO) : ∃ t, s.transact q = .next t ∧ t.rsp.ERR = 1 := by
  have hlegal : q.legal = true := by
    rw [opMayErr, Bool.and_eq_true] at hop
    exact hop.left
  obtain ⟨i, hd⟩ := decodeRequest_ok_iff_legal.mpr hlegal
  obtain ⟨t, ht, -, hr⟩ := (responds_iff_result hs).mpr ⟨i, hd, rfl⟩
  refine ⟨t, ht, ?_⟩
  rw [hr, result_of_zero_divisor hd hop hB]

/-- The request of a line has the line's code (R80). -/
theorem OP_of_lineRequest {env : Env} {op : BitVec 8} {sources : List Source} {q : Request}
    (h : lineRequest env op sources = some q) : q.OP = op := by
  unfold lineRequest at h
  repeat' split at h
  all_goals cases h
  rfl

/-- A line whose transaction answers `ERR = 1` is aborted, whatever its destinations (log 22). -/
theorem runLine_of_transact_err (k : Nat) {env : Env} {s t : State} {op : BitVec 8}
    (dests : List Destination) {sources : List Source} {q : Request}
    (hq : lineRequest env op sources = some q) (ht : s.transact q = .next t) (herr : t.rsp.ERR = 1) :
    runLine k env s (.transaction op dests sources) = .aborted k t := by
  simp only [runLine, hq, ht, afterResponse, if_pos herr]

/-- A transaction line that finishes ends in the state after its transaction. -/
theorem eq_of_afterResponse_finished {k : Nat} {op : BitVec 8} {dests : List Destination}
    {env env' : Env} {t s' : State} (h : afterResponse k op dests env t = .finished env' s') :
    s' = t := by
  unfold afterResponse at h
  split at h
  · cases h
  · split at h
    · cases h
      rfl
    · cases h

/-- A line that finishes leaves a ready core ready: a transaction does (R334), and a pseudo-instruction
leaves the core as it is (R81). -/
theorem reqReady_of_runLine_finished {k : Nat} {env env' : Env} {s s' : State} {l : Line}
    (hs : s.reqReady = true) (h : runLine k env s l = .finished env' s') : s'.reqReady = true := by
  cases l with
  | transaction op dests sources =>
    rw [runLine] at h
    split at h
    · cases h
    · next q _ =>
      split at h
      · next t ht =>
        rw [eq_of_afterResponse_finished h]
        exact State.reqReady_of_transact hs ht
      · cases h
  | mk | hi | lo =>
    rw [runLine] at h
    split at h
    · cases h
      exact hs
    · cases h

/-- A sequence that finishes runs its first line, which finishes, and then the rest. -/
theorem runLines_cons_finished {k : Nat} {env env' : Env} {s s' : State} {l : Line} {ls : List Line}
    (h : runLines k env s (l :: ls) = .finished env' s') :
    ∃ e u, runLine k env s l = .finished e u ∧ runLines (k + 1) e u ls = .finished env' s' := by
  rw [runLines] at h
  split at h
  · next e u hl => exact ⟨e, u, hl, h⟩
  · next hstop => exact absurd h (hstop env' s')

/-- Lines that finish leave a ready core ready, and what stands after them runs from there, numbered on. -/
theorem runLines_append {before : List Line} (after : List Line) {k : Nat} {env env' : Env} {s s' : State}
    (hs : s.reqReady = true) (h : runLines k env s before = .finished env' s') :
    s'.reqReady = true ∧
      runLines k env s (before ++ after) = runLines (k + before.length) env' s' after := by
  induction before generalizing k env s with
  | nil =>
    cases h
    exact ⟨hs, rfl⟩
  | cons l ls ih =>
    obtain ⟨e, u, hl, hrest⟩ := runLines_cons_finished h
    obtain ⟨hready, happend⟩ := ih (reqReady_of_runLine_finished hs hl) hrest
    refine ⟨hready, ?_⟩
    rw [List.cons_append, runLines, hl, List.length_cons, Nat.add_comm ls.length, ← Nat.add_assoc]
    exact happend

/-- Settles O25: the lines before the division leave the core ready (`runLines_append`), so the division
answers `ERR = 1` (`State.transact_err`), which aborts its line and with it the sequence. -/
theorem sequenceStopsAtFirstErr : Obligations.SequenceStopsAtFirstErr := by
  intro k env env' s s' before after op dests sources q hs hbefore hq hop hB
  obtain ⟨hready, happend⟩ := runLines_append (.transaction op dests sources :: after) hs hbefore
  obtain ⟨t, ht, herr⟩ := State.transact_err hready ((OP_of_lineRequest hq).symm ▸ hop) hB
  refine ⟨t, ?_, herr⟩
  rw [happend, runLines, runLine_of_transact_err _ dests hq ht herr]

/-! ### Several cores (R317) -/

/-- An index with no core changes nothing (log 19). -/
theorem stepCore_of_none {cores : List State} {j : Nat} (hj : cores[j]? = none) :
    stepCore j cores = .next cores := by
  rw [stepCore, hj]

/-- A step of one core leaves the number of cores and every other core as they were. -/
theorem stepCore_frame {cores one : List State} {j : Nat} (h : stepCore j cores = .next one) :
    one.length = cores.length ∧ ∀ m, m ≠ j → one[m]? = cores[m]? := by
  rcases stepCore_cases h with ⟨-, rfl⟩ | ⟨s, t, -, -, rfl⟩
  · exact ⟨rfl, fun _ _ => rfl⟩
  · exact ⟨List.length_set, fun m hm => List.getElem?_set_ne hm.symm⟩

/-- Steps of two different cores give the same machines in either order. -/
theorem stepCore_comm {cores one both : List State} {j k : Nat} (hjk : j ≠ k)
    (hj : stepCore j cores = .next one) (hk : stepCore k one = .next both) :
    ∃ other, stepCore k cores = .next other ∧ stepCore j other = .next both := by
  have hsame : one[k]? = cores[k]? := (stepCore_frame hj).right k hjk.symm
  rcases stepCore_cases hk with ⟨hknone, rfl⟩ | ⟨u, v, hku, huv, rfl⟩
  · exact ⟨cores, stepCore_of_none (hsame ▸ hknone), hj⟩
  · have hother : stepCore k cores = .next (cores.set k v) := stepCore_of_step (hsame ▸ hku) huv
    have hjother : (cores.set k v)[j]? = cores[j]? := (stepCore_frame hother).right j hjk
    refine ⟨cores.set k v, hother, ?_⟩
    rcases stepCore_cases hj with ⟨hjnone, rfl⟩ | ⟨s, t, hjs, hst, rfl⟩
    · exact stepCore_of_none (hjother.trans hjnone)
    · rw [stepCore_of_step (hjother.trans hjs) hst, List.set_comm v t hjk.symm]

/-- Settles O19: a step of one core reads and writes its own place in the list alone. -/
theorem coresShareNothing : Obligations.CoresShareNothing := by
  refine ⟨fun cores j s t hj h => ⟨stepCore_of_step hj h, ?_⟩, fun cores one j k hjk hone => ?_⟩
  · obtain ⟨hlt, -⟩ := List.getElem?_eq_some_iff.mp hj
    exact List.getElem?_set_self hlt
  · obtain ⟨hlength, hothers⟩ := stepCore_frame hone
    exact ⟨hlength, hothers, fun both hboth => stepCore_comm hjk hone hboth⟩

end Sys2Proof.Machine
end

section
/-! SUPPORT. What a step does on a ready and on a busy core, the quiet moments after a response, reset, and the
statements of 70_reset_and_hazards: BusyCoreTakesNoRequest, OneResponsePerRequest, ResetAbandonsAndReadies,
EveryInstructionCompletes, StepRunsDecodedInstruction, TransferSamplesTheRequest and ResetMeetsInv. -/

namespace Sys2Proof.Machine

/-! ### The request in progress (R334, R335, R340) -/

/-- Settles O20: every instruction has a row of the table (`result`) and answers with it. -/
theorem everyInstructionCompletes : Obligations.EveryInstructionCompletes :=
  fun i s => ⟨result i, answers_result i s⟩

/-- A word of the opcode table that decodes gives a request that decodes (log 16). -/
theorem decodeRequest_of_decodeTableWord {nbits w : Nat} {i : Instr} (h : decodeTableWord nbits w = some i) :
    decodeRequest (requestOfWord (tableWord nbits w)) = .ok i := by
  rw [decodeTableWord] at h
  split at h
  · next j hd =>
    cases h
    exact hd
  · cases h

/-- Settles O1: both parts are `step_busy`; a placed request is in progress with no `RST` pending. -/
theorem stepRunsDecodedInstruction : Obligations.StepRunsDecodedInstruction := by
  refine ⟨fun s i hs hr hd => step_busy hs hr hd, fun s nbits w i h => ?_⟩
  exact step_busy rfl (resetNext_holdReset s.inputs) (decodeRequest_of_decodeTableWord h)

/-- Settles O3: a legal request decodes, the step is its instruction's, and that answers. -/
theorem busyCoreTakesNoRequest : Obligations.BusyCoreTakesNoRequest := by
  intro s hs hlegal hr
  obtain ⟨i, hd⟩ := decodeRequest_ok_iff_legal.mpr hlegal
  obtain ⟨t, he, hv, -, hready, hreq, hinputs⟩ := answers_result i s
  exact ⟨t, (step_busy hs hr hd).trans he, hinputs, hreq, hv, hready⟩

/-! ### The transfer (R333) -/

/-- A ready core takes a word that decodes, whatever the host does after it. -/
theorem step_request_word {s : State} {w : BitVec 328} {rest : List HostInput} {i : Instr}
    (hs : s.reqReady = true) (hi : s.inputs = .request w :: rest) (hd : decode w = .ok i) :
    step s = .next (State.transfer { s with inputs := rest } (requestOfWord w)) := by
  have h := step_request (q := requestOfWord w) rest hs hd
  rwa [requestWord_requestOfWord, ← hi] at h

/-- Settles O2: the transfer samples the word's fields, and the core is then busy with a request that
decodes. -/
theorem transferSamplesTheRequest : Obligations.TransferSamplesTheRequest := by
  intro s w rest i hs hi hd
  refine ⟨_, step_request_word hs hi hd, rfl, rfl, rfl, rfl, rfl, fun hr => ?_⟩
  exact ⟨result i, answers_result i _, step_busy rfl hr hd⟩

/-! ### One response per request (R333, R340) -/

/-- A ready core that the host offers nothing but quiet moments stays ready with no valid response from its
next step on, and keeps its last request. -/
theorem steps_quiet {s : State} {k : Nat} (hs : s.reqReady = true)
    (hi : s.inputs = List.replicate k .quiet) (n : Nat) :
    ∃ u, steps (n + 1) s = .next u ∧ u.rspValid = false ∧ u.reqReady = true ∧ u.req = s.req := by
  induction n generalizing s k with
  | zero => exact ⟨_, steps_succ_of_step 0 (step_quiet k hs hi), rfl, hs, rfl⟩
  | succ n ih =>
    rw [steps_succ_of_step (n + 1) (step_quiet k hs hi)]
    exact ih hs rfl

/-- Settles O4: the transfer (`step_request`), the answer (`step_busy`, `answers_result`), and then nothing
but quiet moments (`steps_quiet`). -/
theorem oneResponsePerRequest : Obligations.OneResponsePerRequest := by
  intro s q k hs hlegal
  obtain ⟨i, hd⟩ := decodeRequest_ok_iff_legal.mpr hlegal
  have hquiet : resetNext (List.replicate k .quiet) = none := by cases k <;> rfl
  obtain ⟨t, he, hv, -, hready, hreq, hinputs⟩ :=
    answers_result i (State.transfer { s with inputs := List.replicate k .quiet } q)
  refine ⟨_, t, step_request _ hs hd, rfl, rfl, rfl, (step_busy rfl hquiet hd).trans he, hv, hready, hreq,
    hinputs, ?transact, fun n => ?quiet⟩
  case transact =>
    rintro rfl
    exact (State.transact_ok hs hd).trans he
  case quiet =>
    obtain ⟨u, hu, huv, huready, hureq⟩ := steps_quiet hready hinputs n
    exact ⟨u, hu, huv, huready, hureq.trans hreq⟩

/-! ### Reset (R330, R331) -/

/-- `RST` next is what the step does, in every state (R330). -/
theorem step_reset {s : State} {rest : List HostInput} (hi : s.inputs = .reset :: rest) :
    step s = .next (State.applyReset { s with inputs := rest }) := by
  rw [step, hi, resetNext]

/-- Settles O5: the step is `applyReset`, which leaves a ready core, and any two ready cores respond alike. -/
theorem resetAbandonsAndReadies : Obligations.ResetAbandonsAndReadies := by
  refine ⟨⟨rfl, rfl⟩, fun s rest hi => ?_⟩
  exact ⟨_, step_reset hi, rfl, rfl, rfl, fun u r hu => responds_congr hu rfl⟩

/-- Settles O6: the core is ready at reset and has no valid response. -/
theorem resetMeetsInv : Obligations.ResetMeetsInv := inv_of_ready rfl rfl

end Sys2Proof.Machine
end
